-- ==== Sys2Proof/Word.lean ====
section
/-! DEFINITION. The word types of the part: bytes, 16-bit words, 8-byte beats and 40-bit memory addresses. -/

namespace Sys2Proof

/-- A byte of a record or of a beat. -/
abbrev Byte := BitVec 8

/-- A 16-bit word: identity words, incarnations, counters, sideband registers. -/
abbrev Half := BitVec 16

/-- A beat, the 8-byte unit of memory transfer; byte 0 is its least significant byte (04, 4.2). -/
abbrev Beat := BitVec 64

/-- A 40-bit byte address of shelf memory (00 "Numbers"). -/
abbrev Addr := BitVec 40

end Sys2Proof
end

