-- ==== Sys2Proof/Syntax.lean ====
section
/-! DEFINITION. The commands of the block: one constructor per row of spec/opcode_table.json, with the operands
that the row's rule gives it. -/

namespace Sys2Proof

/-- A slot. The manual numbers slots 1 to 14; slot number `n` is the value `n - 1` here. -/
abbrev SlotId := Fin 14

/-- A blade's read tag, 0 to 15 (4.2). -/
abbrev BladeTag := Fin 16

/-- A control tag, 0 to 31 (R178). -/
abbrev ControlTag := Fin 32

/-- A memory tag, the index of a tracker entry (R107). -/
abbrev MemTag := Fin 64

/-- Whether a request reads or writes. -/
inductive AccessKind where
  | read
  | write
  deriving DecidableEq, Repr

/-- One data beat of a write with its byte mask: bit i of the mask enables byte i. -/
structure MaskedBeat where
  mask : Byte
  data : Beat
  deriving DecidableEq, Repr

/-- The header fields that READ and WRITE frames share: a 32-bit blade address and the beats field (R61). -/
structure FrameHeader where
  addr  : BitVec 32
  beats : Nat
  deriving DecidableEq, Repr

/-- A READ frame (4.2). -/
structure ReadFrame where
  tag  : BladeTag
  head : FrameHeader
  deriving DecidableEq, Repr

/-- A WRITE frame at its end (4.2). `parsed` is clear for a frame that the interface cannot parse as READ or
WRITE (R46, R61); `data` are the beats that arrived. -/
structure WriteFrame where
  parsed : Bool
  head   : FrameHeader
  data   : List MaskedBeat
  deriving DecidableEq, Repr

/-- A request of the control link (R178); `data` is empty for a READ. -/
structure ControlReq where
  tag   : ControlTag
  kind  : AccessKind
  addr  : Addr
  beats : Nat
  data  : List MaskedBeat
  deriving DecidableEq, Repr

/-- The commands, in the order of the table. -/
inductive Instr where
  /-- RESET (R27): the RESET pin is asserted and deasserted. -/
  | reset
  /-- PRESENCE_RISE (R9). -/
  | presenceRise (n : SlotId)
  /-- PRESENCE_DROP (R23). -/
  | presenceDrop (n : SlotId)
  /-- EJECTOR_OPENED (R19). -/
  | ejectorOpened (n : SlotId)
  /-- EJECTOR_CLOSED (R19). -/
  | ejectorClosed (n : SlotId)
  /-- PWR_GOOD_RISE (R10). -/
  | pwrGoodRise (n : SlotId)
  /-- PWR_GOOD_DROP (R18). -/
  | pwrGoodDrop (n : SlotId)
  /-- DEBOUNCE_EXPIRY (R9). -/
  | debounceExpiry (n : SlotId)
  /-- POWER_LIMIT_EXPIRY (R10). -/
  | powerLimitExpiry (n : SlotId)
  /-- PROBE_LIMIT_EXPIRY (R51). -/
  | probeLimitExpiry (n : SlotId)
  /-- RAMP_STEP_EXPIRY (R56). -/
  | rampStepExpiry (n : SlotId)
  /-- HOLD_LIMIT_EXPIRY (R136). -/
  | holdLimitExpiry (n : SlotId)
  /-- GRACE_EXPIRY (R163). -/
  | graceExpiry (n : SlotId)
  /-- DRAIN_LIMIT_EXPIRY (R143). -/
  | drainLimitExpiry (n : SlotId)
  /-- VACATING_DRAIN_LIMIT_EXPIRY (R150). -/
  | vacatingDrainLimitExpiry (n : SlotId)
  /-- LINK_UP (R160). -/
  | linkUp (n : SlotId)
  /-- LINK_DOWN (R16). -/
  | linkDown (n : SlotId)
  /-- READ_FRAME (R70). -/
  | readFrame (n : SlotId) (f : ReadFrame)
  /-- WRITE_FRAME (R66). -/
  | writeFrame (n : SlotId) (f : WriteFrame)
  /-- KEY_ACCEPTED (R55). -/
  | keyAccepted (n : SlotId)
  /-- PROBE_FAULT (R13). -/
  | probeFault (n : SlotId)
  /-- GRANT (R114): one decision of the arbiter, `elapsed` µs after the moment the model holds. -/
  | grant (elapsed : Nat)
  /-- MEMORY_COMPLETION (R116): memory tag, status (OK or ERROR) and read data. -/
  | memoryCompletion (tag : MemTag) (ok : Bool) (data : List Beat)
  /-- COMPLETION_TIMEOUT (R121): the deadline of the entry passes. -/
  | completionTimeout (tag : MemTag)
  /-- SIDEBAND_ACCESS_END (R30): the access passes STOP; the 16 bits clocked in (a read) and the level of SBDAT
  after the stop mark. -/
  | sidebandAccessEnd (data : Half) (lineHigh : Bool)
  /-- SIDEBAND_TIMEOUT_EXPIRY (R31). -/
  | sidebandTimeoutExpiry
  /-- REQUEST_TAKE (R184). -/
  | requestTake
  /-- ADMIT (R42). -/
  | admission
  /-- STAGE (R90). -/
  | stage
  /-- COMMIT (R95). -/
  | commit
  /-- HOLD (R135). -/
  | hold
  /-- RESUME (R138). -/
  | resume
  /-- RETIRE (R139). -/
  | retire
  /-- RESTART (R146). -/
  | restart
  /-- PUBLISH (R97). -/
  | publish
  /-- WITHDRAW (R98). -/
  | withdraw
  /-- SIDEBAND (R36). -/
  | sideband
  /-- QUERY (R190). -/
  | query
  /-- DETACH (R191). -/
  | detach
  /-- RESPONSE_WRITE (R186). -/
  | responseWrite
  /-- STATUS_UNIT_WRITE (R189). -/
  | statusUnitWrite
  /-- CONTROL_REQUEST (R178). -/
  | controlRequest (r : ControlReq)
  /-- SCRUB_TAKE (R170). -/
  | scrubTake
  /-- SCRUB_PASS_END (R174). -/
  | scrubPassEnd
  /-- DRAIN_END (R144). -/
  | drainEnd (n : SlotId)
  /-- HOLD_DRAIN_COMPLETE (R136). -/
  | holdDrainComplete (n : SlotId)
  /-- VACATING_END (R151). -/
  | vacatingEnd (n : SlotId)
  /-- FRAME_START (R63): a WRITE frame's header arrives. -/
  | frameStart (n : SlotId) (h : FrameHeader)
  /-- SIDEBAND_ACKNOWLEDGEMENT (R31): the blade of the slot pulls SBDAT low. -/
  | sidebandAcknowledgement (n : SlotId)
  deriving DecidableEq, Repr

end Sys2Proof
end

