-- ==== Sys2Proof/Decode.lean ====
section
/-! DEFINITION. The commands that words spell. The table gives no row any bits: no word spells a command. -/

namespace Sys2Proof

/-- The command that the low `nbits` bits of `w` spell by the table's bits. No row of spec/opcode_table.json gives
bits (98_reader: n_rows_with_fixed and n_rows_with_fields are 0), so no word spells a command (log 23). -/
def decodeTableWord (_nbits _w : Nat) : Option Instr := none

end Sys2Proof
end

