-- ==== Sys2Proof/Config.lean ====
section
/-! DEFINITION. What the manual leaves free. -/

namespace Sys2Proof

/-- FREE VALUE (log 10): at the `k`-th sample of a line that the blade holds low in LINE_CHECK, whether
the blade has released it (R31). Nothing constrains it. -/
opaque Config.sbdatReleased : Nat → Bool

end Sys2Proof
end

