-- ==== Sys2Proof/Machine/State.lean ====
section
/-! DEFINITION. Everything the manual gives the part to hold, as plain data, block by block; the reasons a step can
stop; and the state after RESET. -/

namespace Sys2Proof.Machine

/-- There is no fault: no rule of the manual stops the part (INVENTORY "Faults", log 19). -/
inductive Fault : Type
  deriving DecidableEq, Repr

/-- Reasons for having no meaning. -/
inductive Refusal where
  /-- Raised by an arm of exec whose command has no meaning yet; no arm is left so. Safe: the model stops. -/
  | notModelled (mnemonic : String)
  deriving DecidableEq, Repr

/-! ## Names that records and events share -/

/-- The fifteen slot states (R2), in the order of their codes (11.1). -/
inductive SlotState where
  | empty | seating | powering | identifying | pending | probing | settling | live | holding | held | grace
  | retiring | retired | faulted | vacating
  deriving DecidableEq, Repr

/-- The nine fault causes (R6), in the order of their codes (11.1). -/
inductive FaultCause where
  | powerTimeout | powerLost | identityTimeout | identityCheck | lane | key | glitch | probeTimeout | link
  deriving DecidableEq, Repr

/-- The values of the pending fault other than none (R7). -/
inductive PendingFault where
  | powerLost | link
  deriving DecidableEq, Repr

/-- The intake modes (R60, R64). -/
inductive Intake where
  | none | probe | translated | closed | fence
  deriving DecidableEq, Repr

/-- The probe outcomes that a frame can bring about (R47, R48, R50). -/
inductive ProbeOutcome where
  | keyAccepted | laneMismatch | wrongKey | glitchLimit
  deriving DecidableEq, Repr

/-- The causes of a refused blade access (R70), in the order of their codes (11.1). -/
inductive ViolationCause where
  | outOfWindow | oversize | boundary | unmapped | readOnly
  deriving DecidableEq, Repr

/-- The statuses of a DATA frame (R62). -/
inductive DataStatus where
  | ok | memoryError | timeout | unmapped | boundary | oversize | retired
  deriving DecidableEq, Repr

/-- A DATA frame handed to a slot link (R62). -/
structure DataFrame where
  tag    : BladeTag
  status : DataStatus
  data   : List Beat
  deriving DecidableEq, Repr

/-- The extent states (R83), in the order of their codes in responses (11.1). -/
inductive ExtentState where
  | free | owned | shared | dirty | scrubbing | bad
  deriving DecidableEq, Repr

/-- The statuses of a response (11.1); `ok`, `badField` and `busy` are also attach results (R182). -/
inductive Status where
  | ok | accepted | badRequest | badSlot | badState | badField | extentState | busy | timeout | noBlade
  deriving DecidableEq, Repr

/-- The seventeen participants of the memory port (R110). -/
inductive Participant where
  | slot (n : SlotId)
  | control
  | ring
  | scrub
  deriving DecidableEq, Repr

/-- The tracker entry states (R108). -/
inductive EntryState where
  | free | issued | late | waiting | orphan
  deriving DecidableEq, Repr

/-- The units of the status block (R189). -/
inductive StatusUnit where
  | header
  | slot (n : SlotId)
  | extentMap (k : Fin 64)
  deriving DecidableEq, Repr

/-! ## The slot record, its lines and its link -/

/-- The ten slot counters, each saturating at 65,535 (R26). -/
structure Counters where
  glitch    : Half
  bounce    : Half
  violation : Half
  protocol  : Half
  torn      : Half
  memerr    : Half
  timeout   : Half
  late      : Half
  dropped   : Half
  fenced    : Half
  deriving DecidableEq, Repr

/-- All ten counters at 0. -/
def Counters.zero : Counters := ⟨0, 0, 0, 0, 0, 0, 0, 0, 0, 0⟩

/-- An entry of a committed map or staging set: blade page, extent number as staged, RO or RW (R86, R90). -/
structure MapEntry where
  page   : Fin 32
  extent : Nat
  rw     : Bool
  deriving DecidableEq, Repr

/-- The slot timer (R3): stopped, or running with a duration in µs; the moment it started is the model's (log 5). -/
inductive SlotTimer where
  | stopped
  | running (startedAt duration : Nat)
  deriving DecidableEq, Repr

/-- The part of an ingress queue entry that its kind gives it (R71). -/
inductive IngressBody where
  | read (tag : BladeTag)
  | write (data : List MaskedBeat)
  deriving DecidableEq, Repr

/-- A translated request in an ingress queue (R71). -/
structure IngressEntry where
  addr  : Addr
  beats : Nat
  body  : IngressBody
  deriving DecidableEq, Repr

/-- What the link carries from a blade, and holds back in the order sent while intake is closed (R65). -/
inductive LinkItem where
  | start (h : FrameHeader)
  | read (f : ReadFrame)
  | write (f : WriteFrame)
  deriving DecidableEq, Repr

/-- Everything the part holds for one slot: the slot record (R1), the Slot Line Unit's lines and levels (R2, R4,
R29), the Slot Link Interface (R60) and the slot's hold list at the tracker (R123). -/
structure Slot where
  state        : SlotState
  resume       : Option SlotState
  incarnation  : Half
  fault        : Option FaultCause
  forced       : Bool
  pendingFault : Option PendingFault
  laneMask     : Beat
  identity     : Vector Half 8
  identityOk   : Bool
  cfgCredit    : Nat
  effCredit    : Nat
  maxBeats     : Nat
  map          : Vector (Option MapEntry) 32
  staging      : Vector (Option MapEntry) 32
  progress     : Nat
  glitches     : Nat
  seated       : Bool
  ejectorOpen  : Bool
  counters     : Counters
  timer        : SlotTimer
  /-- PWR_EN is asserted. -/
  pwrEn        : Bool
  /-- LINK_EN is asserted. -/
  linkEn       : Bool
  /-- REMOVE_OK is asserted. -/
  removeOk     : Bool
  /-- Debounced PRESENT level. -/
  present      : Bool
  /-- Debounced EJECT level (open). -/
  eject        : Bool
  /-- Debounced PWR_GOOD level. -/
  pwrGood      : Bool
  /-- The blade pulls SBDAT low. -/
  sbdatLow     : Bool
  /-- Link status: up. -/
  linkUp       : Bool
  intake       : Intake
  placesOpen   : Nat
  ingress      : List IngressEntry
  /-- The partly received frame's header. -/
  partly       : Option FrameHeader
  /-- A frame that started with no place open is arriving and is discarded when it ends (R65). -/
  broken       : Bool
  /-- Tag-in-use set. -/
  tags         : Vector Bool 16
  /-- The probe outcome that the Admission Controller has not yet taken (R49, R52). -/
  outcome      : Option ProbeOutcome
  /-- What the link holds back, oldest first (R65). -/
  heldBack     : List LinkItem
  /-- DATA frames handed to the link since it came up, oldest first (R79). -/
  dataOut      : List DataFrame
  /-- The slot's hold list, oldest first (R123). -/
  holdList     : List MemTag
  deriving DecidableEq, Repr

/-- A slot after RESET (R27, R4, R60, R109; SBDAT not pulled: log 10). -/
def Slot.reset : Slot where
  state := .empty
  resume := none
  incarnation := 0
  fault := none
  forced := false
  pendingFault := none
  laneMask := 0
  identity := Vector.replicate 8 0
  identityOk := false
  cfgCredit := 0
  effCredit := 0
  maxBeats := 0
  map := Vector.replicate 32 none
  staging := Vector.replicate 32 none
  progress := 0
  glitches := 0
  seated := false
  ejectorOpen := false
  counters := Counters.zero
  timer := .stopped
  pwrEn := false
  linkEn := false
  removeOk := false
  present := false
  eject := false
  pwrGood := false
  sbdatLow := false
  linkUp := false
  intake := .none
  placesOpen := 0
  ingress := []
  partly := none
  broken := false
  tags := Vector.replicate 16 false
  outcome := none
  heldBack := []
  dataOut := []
  holdList := []

/-! ## The Sideband Engine -/

/-- A job of the Sideband Engine (R28). An identity job's read progress is the number of words it holds; a request
job's reference is the request's sequence number. -/
inductive Job where
  | identity (slot : SlotId) (words : List Half)
  | request (slot : SlotId) (write : Bool) (reg : Byte) (data : Half) (seq : Half)
  deriving DecidableEq, Repr

/-- The access phases (R28, R30). -/
inductive Phase where
  | idle | lineCheck | command | writeData | ackWait | readData | stop
  deriving DecidableEq, Repr

/-- The Sideband Engine (R28). -/
structure Sideband where
  queue     : List Job
  running   : Option Job
  phase     : Phase
  /-- The moment the present phase ends by itself (COMMAND, WRITE_DATA, READ_DATA, STOP: R30). -/
  phaseEnds : Nat
  /-- The moment the access entered LINE_CHECK, when its sideband timeout started (R31). -/
  started   : Nat
  /-- The expiry of the running timeout has been taken (R31). -/
  expired   : Bool
  /-- The running access has failed with TIMEOUT in ACK_WAIT, and its stop mark is being sent (R31, log 9). -/
  failed    : Bool
  /-- Waiting identity set, ascending, no repeats (R33). -/
  waiting   : List SlotId
  /-- Sideband timeout in units of 10 µs (R28). -/
  timeout   : Nat
  deriving DecidableEq, Repr

/-- The Sideband Engine after RESET (R28; the timeout before any attach: log 1). -/
def Sideband.reset : Sideband := ⟨[], none, .idle, 0, 0, false, false, [], 0⟩

/-! ## The Transaction Tracker and the arbiter -/

/-- What a fetch by the Ring Interface reads: the attach record, or a request ring entry (R179, R183). -/
inductive FetchTarget where
  | attachRecord
  | ringEntry (idx : Nat)
  deriving DecidableEq, Repr

/-- The Ring Interface's reference in a RING entry (R107, R188). `last` marks the response to DETACH. -/
inductive RingRef where
  | fetch (idx : Nat)
  | taken
  | response (idx : Nat) (last : Bool)
  | status (u : StatusUnit)
  | attachResult
  deriving DecidableEq, Repr

/-- The requester tag of a tracker entry (R107). -/
inductive RequesterTag where
  | none
  | blade (t : BladeTag)
  | control (t : ControlTag)
  | trailing (f : FetchTarget)
  | ring (r : RingRef)
  | scrub (k : Nat)
  deriving DecidableEq, Repr

/-- The answer held by a tracker entry (R107, R123), with its data buffer. -/
inductive HeldAnswer where
  | none
  | completion (ok : Bool) (data : List Beat)
  | timeout
  deriving DecidableEq, Repr

/-- A tracker entry (R107). -/
structure Entry where
  state       : EntryState
  who         : Participant
  incarnation : Half
  kind        : AccessKind
  tag         : RequesterTag
  addr        : Addr
  beats       : Nat
  deadline    : Nat
  held        : HeldAnswer
  deriving DecidableEq, Repr

/-- A FREE entry, every other field cleared (R109). -/
def Entry.free : Entry := ⟨.free, .scrub, 0, .read, .none, 0, 0, 0, .none⟩

/-- A request on the memory link that has not been completed (R105). -/
structure MemRequest where
  memTag : MemTag
  kind   : AccessKind
  addr   : Addr
  beats  : Nat
  data   : List MaskedBeat
  deriving DecidableEq, Repr

/-- The Transaction Tracker and the arbiter (R107, R109). -/
structure Tracker where
  entries   : Vector Entry 64
  pointer   : Participant
  lastScrub : Option Nat
  timeout   : Nat
  pace      : Nat
  /-- Requests sent on the memory link and not yet completed, in the order of their grants (R105, log 16). -/
  link      : List MemRequest
  deriving DecidableEq, Repr

/-- The tracker and the arbiter after RESET (R109). -/
def Tracker.reset : Tracker := ⟨Vector.replicate 64 Entry.free, .scrub, none, 65535, 0, []⟩

/-! ## The Extent Table and the Scrub Engine -/

/-- An extent record (R83). -/
structure Extent where
  state     : ExtentState
  owner     : Option SlotId
  refs      : Nat
  withdrawn : Bool
  deriving DecidableEq, Repr

/-- A record's reset value (R83). -/
def Extent.free : Extent := ⟨.free, none, 0, false⟩

/-- A DIRTY record. -/
def Extent.dirty : Extent := ⟨.dirty, none, 0, false⟩

/-- The Extent Table (R82, R83, R101). -/
structure ExtentTable where
  records  : Vector Extent 2048
  queue    : List Nat
  count    : Nat
  base     : Addr
  fill     : Byte
  discards : BitVec 32
  deriving DecidableEq, Repr

/-- The Extent Table after RESET (R83; base, fill and discard count before any attach: log 1). -/
def ExtentTable.reset : ExtentTable := ⟨Vector.replicate 2048 Extent.free, [], 0, 0, 0, 0⟩

/-- The Scrub Engine (R168). -/
structure ScrubEngine where
  current  : Option Nat
  granted  : Nat
  acks     : Nat
  errors   : Nat
  timeouts : Nat
  deferral : Nat
  deriving DecidableEq, Repr

/-- The Scrub Engine after RESET and DETACH (R168). -/
def ScrubEngine.reset : ScrubEngine := ⟨none, 0, 0, 0, 0, 0⟩

/-! ## The Control Port Interface -/

/-- The statuses of an answer on the control link (R178). -/
inductive ControlStatus where
  | ok | memoryError | timeout | filled
  deriving DecidableEq, Repr

/-- An answer on the control link (R178). -/
structure ControlAnswer where
  tag    : ControlTag
  status : ControlStatus
  data   : List Beat
  deriving DecidableEq, Repr

/-- What a place of the control ingress queue holds: a request, or the trailing fetch of a granted write (R178). -/
inductive ControlItem where
  | request (r : ControlReq)
  | trailing (f : FetchTarget)
  deriving DecidableEq, Repr

/-- The Control Port Interface (R178). -/
structure ControlPort where
  queue    : List ControlItem
  /-- Requests held back on the control link, in the order sent. -/
  heldBack : List ControlReq
  /-- Answers sent on the control link, oldest first (log 15). -/
  answers  : List ControlAnswer
  deriving DecidableEq, Repr

/-- The Control Port Interface after RESET (R178). -/
def ControlPort.reset : ControlPort := ⟨[], [], []⟩

/-! ## The Ring Interface -/

/-- The states of the Ring Interface (R180). -/
inductive RingState where
  | detached | attached | draining
  deriving DecidableEq, Repr

/-- The values of the ownership mirror (R186). -/
inductive Mirror where
  | empty | writing | full
  deriving DecidableEq, Repr

/-- A request record as fetched (11.3): the bytes that some kind reads. -/
structure Request where
  kind : Byte
  slot : Byte
  seq  : Half
  p4   : Byte
  p5   : Byte
  p6   : Byte
  p7   : Byte
  p8   : Byte
  p9   : Byte
  deriving DecidableEq, Repr

/-- The results of responses (11.4). -/
inductive Result where
  | nothing
  | incarnation (inc : Half)
  | field (number : Nat)
  | staged (entries : Nat)
  | committed (entries released : Nat)
  | commitFailed (index check : Nat) (found : Option ExtentState)
  | extent (number : Half) (field : Nat) (state : Option ExtentState) (refs : Nat)
  | sideband (reg : Byte) (data : Half)
  | query (inc : Half) (state : SlotState) (counters : Counters)
  deriving DecidableEq, Repr

/-- A response (11.4): status, the request's slot, kind and sequence number as read, and its result. -/
structure Response where
  status : Status
  slot   : Byte
  kind   : Byte
  seq    : Half
  result : Result
  deriving DecidableEq, Repr

/-- The events with the fields that each carries (R154, 11.4). -/
inductive Event where
  | attached (extentCount : Nat) (scrubAtAttach autoRetire : Bool)
  | present (n : SlotId) (inc : Half) (words : Vector Half 8)
  | live (n : SlotId) (inc : Half) (credit : Nat)
  | held (n : SlotId) (inc : Half)
  | holdFailed (n : SlotId) (inc : Half) (queued inFlight late : Nat)
  | retired (n : SlotId) (inc : Half) (forced : Bool) (orphans : Nat)
  | faulted (n : SlotId) (inc : Half) (forced : Bool) (orphans : Nat) (cause : FaultCause) (mask : Beat)
  | removed (n : SlotId) (inc : Half) (surprise : Bool) (left : SlotState)
  | vacated (n : SlotId) (inc : Half) (forced : Bool) (orphans : Nat) (seated : Bool)
  | linkLost (n : SlotId) (inc : Half) (left : SlotState) (torn : Bool) (inFlight : Nat)
  | linkRecovered (n : SlotId) (inc : Half) (back : SlotState) (answers timeouts : Nat)
  | ejector (n : SlotId) (inc : Half) (opened : Bool)
  | violation (n : SlotId) (inc : Half) (kind : AccessKind) (page : Option (Fin 32)) (cause : ViolationCause)
  | memoryWriteError (who : Participant) (inc : Half) (addr : Addr) (beats : Nat) (state : EntryState)
  | extentBad (extent errors timeouts : Nat)
  | scrubIdle (free bad : Nat)
  deriving DecidableEq, Repr

/-- An entry of the pending response queue (R185). -/
inductive RingRecord where
  | response (r : Response)
  | event (e : Event)
  deriving DecidableEq, Repr

/-- A request of the RING participant (R188). -/
inductive RingOp where
  | fetch (idx : Nat)
  | taken (idx : Nat)
  | response (idx : Nat) (rec : RingRecord)
  | status (u : StatusUnit)
  | attachResult (status : Status) (field : Nat)
  deriving DecidableEq, Repr

/-- The Ring Interface (R180). -/
structure Ring where
  state      : RingState
  reqBase    : Addr
  reqSize    : Nat
  respBase   : Addr
  respSize   : Nat
  statusBase : Addr
  consumer   : Nat
  producer   : Nat
  mirror     : Vector Mirror 256
  held       : Option Request
  exec       : Option Request
  pend       : List RingRecord
  reserved   : Nat
  queue      : List RingOp
  /-- Requests that wait for a place of the queue ahead of every other user (R188, log 18). -/
  waiting    : List RingOp
  /-- Stale units in the order of R189, no repeats. -/
  stale      : List StatusUnit
  lost       : BitVec 32
  attn       : Bool
  deriving DecidableEq, Repr

/-- The Ring Interface after RESET (R180; the geometry before any attach: log 1). -/
def Ring.reset : Ring where
  state := .detached
  reqBase := 0
  reqSize := 0
  respBase := 0
  respSize := 0
  statusBase := 0
  consumer := 0
  producer := 0
  mirror := Vector.replicate 256 .empty
  held := none
  exec := none
  pend := []
  reserved := 0
  queue := []
  waiting := []
  stale := []
  lost := 0
  attn := false

/-! ## The whole part -/

/-- What the attach record gives the Admission Controller and the Slot Link Interfaces (R181, R182), in the
record's units: ms, and 10 µs for the ramp step, and µs for the grace. -/
structure Params where
  debounce    : Nat
  powerLimit  : Nat
  probeLimit  : Nat
  glitchLimit : Nat
  rampStep    : Nat
  grace       : Nat
  holdLimit   : Nat
  drainLimit  : Nat
  autoRetire  : Bool
  deriving DecidableEq, Repr

/-- The parameters before any attach (DESIGN CHOICE, log 1). -/
def Params.reset : Params := ⟨0, 0, 0, 0, 0, 0, 0, 0, false⟩

/-- The state of the part. -/
structure State where
  slots     : Vector Slot 14
  sb        : Sideband
  trk       : Tracker
  ext       : ExtentTable
  scrub     : ScrubEngine
  ctl       : ControlPort
  ring      : Ring
  params    : Params
  /-- The ATTACH_SEL straps (R181, log 2). -/
  attachSel : BitVec 4
  /-- The moment on the 1 µs timebase, in µs (log 5). -/
  now       : Nat
  /-- MODEL'S OWN: how many free values have been drawn (log 10). -/
  drawn     : Nat
  /-- MODEL'S OWN: the commands that wait, first in, first out. -/
  pending   : List Instr
  deriving DecidableEq, Repr

/-- The part right after RESET at power-on, before any attach, with no command waiting. -/
def State.reset : State where
  slots := Vector.replicate 14 Slot.reset
  sb := Sideband.reset
  trk := Tracker.reset
  ext := ExtentTable.reset
  scrub := ScrubEngine.reset
  ctl := ControlPort.reset
  ring := Ring.reset
  params := Params.reset
  attachSel := 0
  now := 0
  drawn := 0
  pending := []

end Sys2Proof.Machine
end

