-- ==== Sys2Proof/Machine/Flags.lean ====
section
/-! DEFINITION. The counters, the values that the status block shows, and the small facts about states that many
rules read. -/

namespace Sys2Proof.Machine

/-! ## Saturating counters -/

/-- A 16-bit counter raised by `k`, stopping at 65,535 (R26). -/
def satAdd16 (c : Half) (k : Nat) : Half := BitVec.ofNat 16 (min 65535 (c.toNat + k))

/-- A 32-bit counter raised by 1, stopping at its largest value (R101, R180). -/
def satInc32 (c : BitVec 32) : BitVec 32 := BitVec.ofNat 32 (min 4294967295 (c.toNat + 1))

def Counters.addGlitch (c : Counters) : Counters := { c with glitch := satAdd16 c.glitch 1 }
def Counters.addBounce (c : Counters) : Counters := { c with bounce := satAdd16 c.bounce 1 }
def Counters.addViolation (c : Counters) : Counters := { c with violation := satAdd16 c.violation 1 }
def Counters.addProtocol (c : Counters) : Counters := { c with protocol := satAdd16 c.protocol 1 }
def Counters.addTorn (c : Counters) : Counters := { c with torn := satAdd16 c.torn 1 }
def Counters.addMemerr (c : Counters) : Counters := { c with memerr := satAdd16 c.memerr 1 }
def Counters.addTimeout (c : Counters) : Counters := { c with timeout := satAdd16 c.timeout 1 }
def Counters.addLate (c : Counters) : Counters := { c with late := satAdd16 c.late 1 }
def Counters.addDropped (c : Counters) (k : Nat) : Counters := { c with dropped := satAdd16 c.dropped k }
def Counters.addFenced (c : Counters) : Counters := { c with fenced := satAdd16 c.fenced 1 }

/-! ## Slot states -/

/-- SETTLING, LIVE, HOLDING and HELD: the states from which a link loss enters GRACE (R157). -/
def SlotState.traffic : SlotState → Bool
  | .settling | .live | .holding | .held => true
  | .empty | .seating | .powering | .identifying | .pending | .probing | .grace | .retiring | .retired | .faulted
  | .vacating => false

/-- The states in which a discarded partly received write counts in TORN (R67). -/
def SlotState.countsTorn : SlotState → Bool
  | .settling | .live | .holding | .held | .retiring => true
  | .empty | .seating | .powering | .identifying | .pending | .probing | .grace | .retired | .faulted
  | .vacating => false

/-- The states in which a DETACH is accepted (R191). -/
def SlotState.detachable : SlotState → Bool
  | .empty | .seating | .powering | .identifying | .pending | .retired | .faulted => true
  | .probing | .settling | .live | .holding | .held | .grace | .retiring | .vacating => false

/-- The states in which an accepted RETIRE fences the blade (R20). -/
def SlotState.retirable : SlotState → Bool
  | .powering | .identifying | .pending | .probing | .settling | .live | .holding | .held | .grace => true
  | .empty | .seating | .retiring | .retired | .faulted | .vacating => false

/-- Whether an ejector edge posts EJECTOR (R19). -/
def SlotState.postsEjector : SlotState → Bool
  | .empty | .seating => false
  | .powering | .identifying | .pending | .probing | .settling | .live | .holding | .held | .grace | .retiring
  | .retired | .faulted | .vacating => true

/-- Whether the slot takes SIDEBAND requests: the powered states from IDENTIFYING, and RETIRING with PWR_EN (R36). -/
def Slot.takesSideband (sl : Slot) : Bool :=
  match sl.state with
  | .identifying | .pending | .probing | .settling | .live | .holding | .held | .grace => true
  | .retiring => sl.pwrEn
  | .empty | .seating | .powering | .retired | .faulted | .vacating => false

/-- Whether the blade can receive a DATA frame: SETTLING, LIVE, HOLDING, HELD, or RETIRING with LINK_EN (R78). -/
def Slot.canReceive (sl : Slot) : Bool :=
  sl.state.traffic || (decide (sl.state = .retiring) && sl.linkEn)

/-! ## What the status block shows -/

/-- The values of a slot entry of the status block (R189, 11.5). -/
structure SlotShown where
  state       : SlotState
  resume      : Option SlotState
  incarnation : Half
  fault       : Option FaultCause
  forced      : Bool
  effCredit   : Nat
  present     : Bool
  eject       : Bool
  pwrGood     : Bool
  deriving DecidableEq, Repr

/-- The values that a slot's entry of the status block shows (R189). -/
def Slot.shown (sl : Slot) : SlotShown :=
  ⟨sl.state, sl.resume, sl.incarnation, sl.fault, sl.forced, sl.effCredit, sl.present, sl.eject, sl.pwrGood⟩

/-- An extent's two bits in the extent map (R104). -/
def ExtentState.mapCode : ExtentState → Nat
  | .free => 0
  | .owned | .shared => 1
  | .dirty | .scrubbing => 2
  | .bad => 3

/-- Which of the header's counts an extent is in: FREE 0, none (OWNED) 1, shared 2, dirty 3, bad 4 (R104). -/
def ExtentState.countClass : ExtentState → Nat
  | .free => 0
  | .owned => 1
  | .shared => 2
  | .dirty | .scrubbing => 3
  | .bad => 4

/-- The order in which stale units are queued (R189). -/
def StatusUnit.rank : StatusUnit → Nat
  | .header => 0
  | .slot n => n.val + 1
  | .extentMap k => k.val + 15

/-- A unit put into the stale set, which stands in the order of R189 and holds each unit once. -/
def insertUnit (u : StatusUnit) : List StatusUnit → List StatusUnit
  | [] => [u]
  | v :: vs => if u = v then v :: vs else if u.rank < v.rank then u :: v :: vs else v :: insertUnit u vs

/-- Every unit of the status block, in the order of R189. -/
def allUnits : List StatusUnit :=
  .header :: ((List.finRange 14).map .slot ++ (List.finRange 64).map .extentMap)

end Sys2Proof.Machine
end

