-- ==== Sys2Proof/Machine/Records.lean ====
section
/-! DEFINITION. The record formats of chapter 11: the codes, the records the part writes and those it reads. -/

namespace Sys2Proof.Machine

/-! ## Encodings (11.1) -/

def SlotState.code : SlotState → Nat
  | .empty => 0
  | .seating => 1
  | .powering => 2
  | .identifying => 3
  | .pending => 4
  | .probing => 5
  | .settling => 6
  | .live => 7
  | .holding => 8
  | .held => 9
  | .grace => 10
  | .retiring => 11
  | .retired => 12
  | .faulted => 13
  | .vacating => 14

def FaultCause.code : FaultCause → Nat
  | .powerTimeout => 1
  | .powerLost => 2
  | .identityTimeout => 3
  | .identityCheck => 4
  | .lane => 5
  | .key => 6
  | .glitch => 7
  | .probeTimeout => 8
  | .link => 9

def Status.code : Status → Nat
  | .ok => 1
  | .accepted => 2
  | .badRequest => 3
  | .badSlot => 4
  | .badState => 5
  | .badField => 6
  | .extentState => 7
  | .busy => 8
  | .timeout => 9
  | .noBlade => 10

def ExtentState.code : ExtentState → Nat
  | .free => 0
  | .owned => 1
  | .shared => 2
  | .dirty => 3
  | .scrubbing => 4
  | .bad => 5

/-- Read 1, write 2. -/
def kindCode : AccessKind → Nat
  | .read => 1
  | .write => 2

def Participant.code : Participant → Nat
  | .slot n => n.val + 1
  | .control => 15
  | .ring => 16
  | .scrub => 17

def EntryState.code : EntryState → Nat
  | .free => 0
  | .issued => 1
  | .late => 2
  | .waiting => 3
  | .orphan => 4

def ViolationCause.code : ViolationCause → Nat
  | .outOfWindow => 1
  | .oversize => 2
  | .boundary => 3
  | .unmapped => 4
  | .readOnly => 5

/-! ## Writing records: fields at offsets, little-endian, every other byte 0 (R193) -/

/-- Fields of a record: offset, size in bytes, value. -/
abbrev Fields := List (Nat × Nat × Nat)

/-- The byte at an offset of a record with these fields; 0 where no field lies. -/
def fieldByte : Fields → Nat → Nat
  | [], _ => 0
  | (off, size, value) :: rest, i =>
    if off ≤ i ∧ i < off + size then value / 256 ^ (i - off) % 256 else fieldByte rest i

/-- Beat `k` of a record, its byte 0 least significant. -/
def fieldBeat (fs : Fields) (k : Nat) : Beat :=
  BitVec.ofNat 64 ((List.range 8).foldr (fun i acc => fieldByte fs (8 * k + i) + 256 * acc) 0)

/-- The first `n` beats of a record, every byte enabled. -/
def writeBeats (fs : Fields) (n : Nat) : List MaskedBeat :=
  (List.range n).map fun k => ⟨0xFF, fieldBeat fs k⟩

/-- The slot number, 1 to 14. -/
def slotNumber (n : SlotId) : Nat := n.val + 1

/-- The results of responses (11.4). -/
def Result.fields : Result → Fields
  | .nothing => []
  | .incarnation inc => [(6, 2, inc.toNat)]
  | .field number => [(8, 1, number)]
  | .staged entries => [(8, 1, entries)]
  | .committed entries released => [(8, 1, entries), (9, 1, released)]
  | .commitFailed index check found =>
    [(8, 1, index), (9, 1, check), (10, 1, (found.map ExtentState.code).getD 0)]
  | .extent number fld state refs =>
    [(12, 2, number.toNat), (8, 1, fld), (10, 1, (state.map ExtentState.code).getD 0), (11, 1, refs)]
  | .sideband reg data => [(9, 1, reg.toNat), (10, 2, data.toNat)]
  | .query inc state c =>
    [(6, 2, inc.toNat), (8, 1, state.code), (10, 2, c.glitch.toNat), (12, 2, c.bounce.toNat),
      (14, 2, c.violation.toNat), (16, 2, c.protocol.toNat), (18, 2, c.torn.toNat), (20, 2, c.memerr.toNat),
      (22, 2, c.timeout.toNat), (24, 2, c.late.toNat), (26, 2, c.dropped.toNat), (28, 2, c.fenced.toNat)]

/-- A response ring entry that holds a response (11.4). -/
def Response.fields (r : Response) : Fields :=
  [(0, 1, 1), (1, 1, r.status.code), (2, 1, r.slot.toNat), (3, 1, r.kind.toNat), (4, 2, r.seq.toNat)] ++
    r.result.fields ++ [(31, 1, 1)]

/-- Event kind, slot byte, incarnation and payload of an event (11.1, 11.4). -/
def Event.fields : Event → Fields
  | .attached count scrub auto =>
    [(1, 1, 1), (8, 2, count), (10, 1, scrub.toNat + 2 * auto.toNat)]
  | .present n inc w =>
    [(1, 1, 2), (2, 1, slotNumber n), (6, 2, inc.toNat), (8, 2, w[0].toNat), (10, 2, w[1].toNat),
      (12, 2, w[2].toNat), (14, 2, w[3].toNat), (16, 2, w[4].toNat), (18, 2, w[5].toNat), (20, 2, w[6].toNat),
      (22, 2, w[7].toNat)]
  | .live n inc credit => [(1, 1, 3), (2, 1, slotNumber n), (6, 2, inc.toNat), (8, 1, credit)]
  | .held n inc => [(1, 1, 4), (2, 1, slotNumber n), (6, 2, inc.toNat)]
  | .holdFailed n inc queued inFlight late =>
    [(1, 1, 5), (2, 1, slotNumber n), (6, 2, inc.toNat), (8, 1, queued), (9, 1, inFlight), (10, 1, late)]
  | .retired n inc forced orphans =>
    [(1, 1, 6), (2, 1, slotNumber n), (6, 2, inc.toNat), (8, 1, forced.toNat), (9, 1, orphans)]
  | .faulted n inc forced orphans cause mask =>
    [(1, 1, 7), (2, 1, slotNumber n), (6, 2, inc.toNat), (8, 1, forced.toNat), (9, 1, orphans),
      (10, 1, cause.code), (16, 8, mask.toNat)]
  | .removed n inc surprise left =>
    [(1, 1, 8), (2, 1, slotNumber n), (6, 2, inc.toNat), (8, 1, surprise.toNat), (10, 1, left.code)]
  | .vacated n inc forced orphans seated =>
    [(1, 1, 9), (2, 1, slotNumber n), (6, 2, inc.toNat), (8, 1, forced.toNat), (9, 1, orphans),
      (11, 1, seated.toNat)]
  | .linkLost n inc left torn inFlight =>
    [(1, 1, 10), (2, 1, slotNumber n), (6, 2, inc.toNat), (10, 1, left.code), (11, 1, torn.toNat),
      (12, 1, inFlight)]
  | .linkRecovered n inc back answers timeouts =>
    [(1, 1, 11), (2, 1, slotNumber n), (6, 2, inc.toNat), (10, 1, back.code), (12, 1, answers),
      (13, 1, timeouts)]
  | .ejector n inc opened => [(1, 1, 12), (2, 1, slotNumber n), (6, 2, inc.toNat), (8, 1, opened.toNat)]
  | .violation n inc kind page cause =>
    [(1, 1, 13), (2, 1, slotNumber n), (6, 2, inc.toNat), (8, 1, kindCode kind),
      (9, 1, (page.map Fin.val).getD 255), (10, 1, cause.code)]
  | .memoryWriteError who inc addr beats state =>
    (match who with
      | .slot n => [(2, 1, slotNumber n), (6, 2, inc.toNat)]
      | .control | .ring | .scrub => []) ++
      [(1, 1, 14), (8, 1, who.code), (9, 1, beats), (10, 1, state.code), (16, 5, addr.toNat)]
  | .extentBad extent errors timeouts => [(1, 1, 15), (8, 2, extent), (10, 2, errors), (12, 2, timeouts)]
  | .scrubIdle free bad => [(1, 1, 16), (8, 2, free), (10, 2, bad)]

/-- A response ring entry, its owner byte FULL (11.4, R186). -/
def RingRecord.fields : RingRecord → Fields
  | .response r => r.fields
  | .event e => [(0, 1, 2), (31, 1, 1)] ++ e.fields

/-- Whether a record is the response OK to a DETACH, whose write ends DRAINING (R191). -/
def RingRecord.endsDraining : RingRecord → Bool
  | .response r => decide (r.kind = 12 ∧ r.status = .ok)
  | .event _ => false

/-- A slot entry of the status block, with the fields of 11.5 and 0 elsewhere (R189, R193). DESIGN CHOICE (log 37): the
identity, which R41 names among what the status block shows, has no field there and is not written. -/
def Slot.statusFields (sl : Slot) : Fields :=
  [(0, 1, sl.state.code), (1, 1, (sl.resume.map SlotState.code).getD 0), (2, 2, sl.incarnation.toNat),
    (4, 1, (sl.fault.map FaultCause.code).getD 0), (5, 1, sl.forced.toNat), (6, 1, sl.effCredit),
    (7, 1, sl.present.toNat + 2 * sl.eject.toNat + 4 * sl.pwrGood.toNat)]

/-- The records below the extent count. -/
def ExtentTable.live (t : ExtentTable) : List Extent := t.records.toList.take t.count

/-- How many extents below the extent count are in a count of the header (R104). -/
def ExtentTable.countOf (t : ExtentTable) (cls : Nat) : Nat :=
  t.live.countP fun e => e.state.countClass == cls

/-- The header of the status block (11.5). -/
def headerFields (t : ExtentTable) (r : Ring) : Fields :=
  [(0, 1, (decide (r.state = .attached)).toNat), (4, 2, t.countOf 0), (6, 2, t.countOf 2), (8, 2, t.countOf 3),
    (10, 2, t.countOf 4), (12, 2, t.queue.length), (16, 4, r.lost.toNat), (20, 4, t.discards.toNat)]

/-- Beat `k` of the extent map: extent 32k + j in bits 2j + 1 and 2j (11.5). -/
def extentMapValue (t : ExtentTable) (k : Nat) : Nat :=
  ((t.live.drop (32 * k)).take 32).foldr (fun e acc => e.state.mapCode + 4 * acc) 0

/-! ## Reading records (R192) -/

/-- Byte `i` of fetched data. -/
def recByte (data : List Beat) (i : Nat) : Byte := (data.getD (i / 8) 0).extractLsb' (8 * (i % 8)) 8

/-- The little-endian field of `size` bytes at `off` of fetched data. -/
def recNat (data : List Beat) (off : Nat) : Nat → Nat
  | 0 => 0
  | size + 1 => (recByte data off).toNat + 256 * recNat data (off + 1) size

/-- The request in a fetched request ring entry (11.3). -/
def Request.parse (data : List Beat) : Request where
  kind := recByte data 0
  slot := recByte data 1
  seq := BitVec.ofNat 16 (recNat data 2 2)
  p4 := recByte data 4
  p5 := recByte data 5
  p6 := recByte data 6
  p7 := recByte data 7
  p8 := recByte data 8
  p9 := recByte data 9

/-- The owner byte of a fetched ring entry (11.3). -/
def ownerByte (data : List Beat) : Byte := recByte data 31

/-- The attach marker `RASJET-A`, first character at offset 0 (11.2). -/
def markerBytes : List Byte := [0x52, 0x41, 0x53, 0x4A, 0x45, 0x54, 0x2D, 0x41]

/-- Whether beat 0 of a fetched attach record holds the marker (R181). -/
def hasMarker (data : List Beat) : Bool := decide ((List.range 8).map (recByte data) = markerBytes)

/-- The twenty fields of an attach record (R181, 11.2). -/
structure AttachRecord where
  reqBase      : Nat
  reqSize      : Nat
  respBase     : Nat
  respSize     : Nat
  statusBase   : Nat
  managedBase  : Nat
  extentCount  : Nat
  fill         : Byte
  scrubAtAttach : Bool
  autoRetire   : Bool
  debounce     : Nat
  powerLimit   : Nat
  sidebandTimeout : Nat
  probeLimit   : Nat
  glitchLimit  : Nat
  rampStep     : Nat
  grace        : Nat
  holdLimit    : Nat
  drainLimit   : Nat
  completionTimeout : Nat
  scrubPace    : Nat
  deriving DecidableEq, Repr

/-- The fields of fetched attach data (11.2). -/
def AttachRecord.parse (data : List Beat) : AttachRecord where
  reqBase := recNat data 8 5
  reqSize := recNat data 14 2
  respBase := recNat data 16 5
  respSize := recNat data 22 2
  statusBase := recNat data 24 5
  managedBase := recNat data 32 5
  extentCount := recNat data 38 2
  fill := recByte data 40
  scrubAtAttach := (recByte data 41).getLsbD 0
  autoRetire := (recByte data 41).getLsbD 1
  debounce := recNat data 42 1
  powerLimit := recNat data 43 1
  sidebandTimeout := recNat data 44 1
  probeLimit := recNat data 45 1
  glitchLimit := recNat data 46 1
  rampStep := recNat data 47 1
  grace := recNat data 48 2
  holdLimit := recNat data 50 2
  drainLimit := recNat data 52 2
  completionTimeout := recNat data 54 2
  scrubPace := recNat data 56 1

/-- Whether two byte ranges, each a start and a length, share a byte. -/
def overlaps (a la b lb : Nat) : Bool := decide (a < b + lb ∧ b < a + la)

/-- A power of two from 8 to 256 (fields 2 and 4). -/
def ringSizeOk (n : Nat) : Bool := [8, 16, 32, 64, 128, 256].contains n

/-- The number of the first field that fails, with the size and range tests of fields 2, 4 and 7 taken where R181
says (log 24); none when every field passes. `page` is the attach page's address. -/
def AttachRecord.failing (r : AttachRecord) (page : Nat) : Option Nat :=
  let reqLen := r.reqSize * 32
  let respLen := r.respSize * 32
  let region := r.extentCount * 65536
  if !ringSizeOk r.reqSize then some 2
  else if r.reqBase % reqLen ≠ 0 || overlaps r.reqBase reqLen page 4096 then some 1
  else if !ringSizeOk r.respSize then some 4
  else if r.respBase % respLen ≠ 0 || overlaps r.respBase respLen page 4096 ||
      overlaps r.respBase respLen r.reqBase reqLen then some 3
  else if r.statusBase % 4096 ≠ 0 || overlaps r.statusBase 1024 page 4096 ||
      overlaps r.statusBase 1024 r.reqBase reqLen || overlaps r.statusBase 1024 r.respBase respLen then some 5
  else if r.managedBase % 65536 ≠ 0 then some 6
  else if r.extentCount = 0 || r.extentCount > 2048 then some 7
  else if overlaps r.managedBase region page 4096 || overlaps r.managedBase region r.reqBase reqLen ||
      overlaps r.managedBase region r.respBase respLen || overlaps r.managedBase region r.statusBase 1024 then some 6
  else if r.managedBase + region > 2 ^ 40 then some 7
  else if r.debounce = 0 then some 10
  else if r.powerLimit = 0 then some 11
  else if r.sidebandTimeout = 0 then some 12
  else if r.probeLimit = 0 then some 13
  else if r.glitchLimit = 0 then some 14
  else if r.holdLimit = 0 || r.holdLimit > 4095 then some 17
  else if r.drainLimit = 0 || r.drainLimit > 4095 then some 18
  else if r.completionTimeout = 0 then some 19
  else none

end Sys2Proof.Machine
end

