-- ==== Sys2Proof/Machine/Operands.lean ====
section
/-! DEFINITION. The operand forms of the commands: what a frame, a control request and a request record say. -/

namespace Sys2Proof.Machine

/-! ## Blade frames (chapter 4) -/

/-- The header part of being well formed: 1 to 32 beats, an address that is a multiple of 8 (R61). -/
def headerOk (h : FrameHeader) : Bool := decide (1 ≤ h.beats ∧ h.beats ≤ 32 ∧ h.addr.toNat % 8 = 0)

/-- A WRITE is well formed when it parsed, its header is, and it ended after as many beats as its field gives (R61). -/
def writeOk (f : WriteFrame) : Bool := f.parsed && headerOk f.head && decide (f.data.length = f.head.beats)

/-- The value of a probe candidate: a WRITE of one beat to address 0 with all 8 bytes enabled (R46). -/
def probeCandidate (f : WriteFrame) : Option Beat :=
  match f.parsed, f.data with
  | true, [b] => if f.head.addr = 0 ∧ f.head.beats = 1 ∧ b.mask = 0xFF then some b.data else none
  | _, _ => none

/-- The probe key: identity words 3 to 6, word 3 most significant (R48). -/
def probeKey (words : Vector Half 8) : Beat := words[3] ++ words[4] ++ words[5] ++ words[6]

/-- The blade page of an address within the window (R70). -/
def bladePage (addr : BitVec 32) : Fin 32 := Fin.ofNat 32 (addr.toNat / 65536)

/-- The offset within the page (R70). -/
def bladeOffset (addr : BitVec 32) : Nat := addr.toNat % 65536

/-- The non-empty entries of a map or staging set, in ascending index order (R86). -/
def mapEntries (m : Vector (Option MapEntry) 32) : List MapEntry := m.toList.filterMap id

/-- The non-empty entries with their indexes, in ascending index order (R93). -/
def indexedEntries (m : Vector (Option MapEntry) 32) : List (Nat × MapEntry) :=
  m.toList.zipIdx.filterMap fun p => p.1.map fun e => (p.2, e)

/-- The entry of a map for a page (R86). -/
def findPage (m : Vector (Option MapEntry) 32) (p : Fin 32) : Option MapEntry :=
  (mapEntries m).find? fun e => e.page == p

/-- The five checks of a translated request, in order (R70): the cause of the first that fails, or the map entry. -/
def translateCheck (m : Vector (Option MapEntry) 32) (maxBeats : Nat) (kind : AccessKind) (h : FrameHeader) :
    Except ViolationCause MapEntry :=
  if 0x200000 ≤ h.addr.toNat then .error .outOfWindow
  else if maxBeats < h.beats then .error .oversize
  else if 65536 < bladeOffset h.addr + 8 * h.beats then .error .boundary
  else match findPage m (bladePage h.addr) with
    | none => .error .unmapped
    | some e => if kind = .write ∧ e.rw = false then .error .readOnly else .ok e

/-- The memory address of an accepted request (R71). -/
def translate (base : Addr) (e : MapEntry) (h : FrameHeader) : Addr :=
  base + BitVec.ofNat 40 (e.extent * 65536 + bladeOffset h.addr)

/-- The status that a refused READ is answered with (R70). -/
def ViolationCause.status : ViolationCause → DataStatus
  | .outOfWindow => .unmapped
  | .oversize => .oversize
  | .boundary => .boundary
  | .unmapped => .unmapped
  | .readOnly => .unmapped

/-- The page that event VIOLATION carries: none for OUT_OF_WINDOW (R72). -/
def violationPage (c : ViolationCause) (h : FrameHeader) : Option (Fin 32) :=
  match c with
  | .outOfWindow => none
  | .oversize | .boundary | .unmapped | .readOnly => some (bladePage h.addr)

/-! ## Control requests (R178, R179, R100) -/

/-- Whether the Control Port Interface takes a request into its queue rather than answering it MEMORY_ERROR (R178). -/
def controlQueueable (r : ControlReq) : Bool :=
  decide (1 ≤ r.beats ∧ r.beats ≤ 32 ∧ r.addr.toNat % 8 = 0 ∧ r.addr.toNat + 8 * r.beats ≤ 2 ^ 40)

/-- The byte that a control WRITE covers at an address: in range and enabled by its beat's mask (R179). -/
def controlCovers (r : ControlReq) (a : Nat) : Option Byte :=
  if r.kind = .write ∧ r.addr.toNat ≤ a ∧ a < r.addr.toNat + 8 * r.beats then
    let i := a - r.addr.toNat
    match r.data[i / 8]? with
    | some b => if b.mask.getLsbD (i % 8) then some (b.data.extractLsb' (8 * (i % 8)) 8) else none
    | none => none
  else none

/-- The extents below `count` that a range of memory touches (R100). -/
def touchedExtents (base : Addr) (count : Nat) (addr : Addr) (beats : Nat) : List Nat :=
  let hi := addr.toNat + 8 * beats - 1
  if hi < base.toNat then []
  else
    let first := (addr.toNat - base.toNat) / 65536
    let last := (hi - base.toNat) / 65536
    (List.range' first (last + 1 - first)).filter (· < count)

/-! ## Request records (11.3) -/

/-- The kinds of request that name a slot (R184). -/
def Request.namesSlot (r : Request) : Bool := [1, 2, 3, 4, 5, 6, 7, 10, 11].contains r.kind.toNat

/-- A kind that is one of the twelve (R184). -/
def Request.kindOk (r : Request) : Bool := decide (1 ≤ r.kind.toNat ∧ r.kind.toNat ≤ 12)

/-- The slot that a request names, if it is 1 to 14 (R184). -/
def Request.slotId (r : Request) : Option SlotId :=
  if h : 1 ≤ r.slot.toNat ∧ r.slot.toNat ≤ 14 then some ⟨r.slot.toNat - 1, by omega⟩ else none

/-- The 16-bit parameter at offset 4 (PUBLISH, WITHDRAW). -/
def Request.extentAt4 (r : Request) : Half := r.p5 ++ r.p4

/-- The 16-bit parameter at offset 6 (SIDEBAND). -/
def Request.dataAt6 (r : Request) : Half := r.p7 ++ r.p6

/-- The 16-bit parameter at offset 8 (STAGE). -/
def Request.extentAt8 (r : Request) : Half := r.p9 ++ r.p8

/-- The slot byte that a response echoes: as read, and 0 for PUBLISH, WITHDRAW and DETACH, whose slot byte is not
read (11.3, 11.4, R192; log 22). -/
def Request.echoSlot (r : Request) : Byte := if [8, 9, 12].contains r.kind.toNat then 0 else r.slot

/-- A response to a request, with its slot, kind and sequence number (R193). -/
def Request.answer (r : Request) (st : Status) (res : Result) : Response :=
  ⟨st, r.echoSlot, r.kind, r.seq, res⟩

end Sys2Proof.Machine
end

