-- ==== Sys2Proof/Machine/Ops.lean ====
section
/-! DEFINITION. The named operations over the state: the registers of each block, events and responses, stale
units, the tracker's entries and orders, the Extent Table, and the Sideband Engine's queue. The meanings of the
commands are built of these. -/

namespace Sys2Proof.Machine

/-- The outcome of a step of this part. -/
abbrev StepResult := Host.Outcome State Fault Refusal

/-- The moment a slot timer expires; 0 for a stopped one. -/
def SlotTimer.due : SlotTimer → Nat
  | .stopped => 0
  | .running at_ duration => at_ + duration

/-! ## The status block's stale units (R189) -/

/-- Whether a ring request writes a unit. -/
def RingOp.writes (u : StatusUnit) : RingOp → Bool
  | .status v => u == v
  | .fetch _ | .taken _ | .response _ _ | .attachResult _ _ => false

/-- A value that a unit shows has changed: the unit becomes stale while the part is attached, unless a write of it
already waits in the ring request queue (R189). -/
def Ring.markStale (r : Ring) (u : StatusUnit) : Ring :=
  if r.state = .attached ∧ r.queue.any (RingOp.writes u) = false then { r with stale := insertUnit u r.stale } else r

/-- `markStale` on the whole part. -/
def State.markStale (s : State) (u : StatusUnit) : State := { s with ring := s.ring.markStale u }

/-! ## Events and responses (R185) -/

/-- An event handed over: it joins the pending response queue, or is lost and counted when no place is unreserved;
while the part is detached or draining it is discarded (R185, log 21). -/
def Ring.postEvent (r : Ring) (e : Event) : Ring :=
  if r.state = .attached then
    if r.pend.length + r.reserved < 32 then { r with pend := r.pend ++ [.event e] }
    else Ring.markStale { r with lost := satInc32 r.lost } .header
  else r

/-- `postEvent` on the whole part. -/
def State.postEvent (s : State) (e : Event) : State := { s with ring := s.ring.postEvent e }

/-- A response handed over into its reserved place (R185). -/
def Ring.respond (r : Ring) (a : Response) : Ring :=
  { r with pend := r.pend ++ [.response a], reserved := r.reserved - 1 }

/-- `respond` on the whole part. -/
def State.respond (s : State) (a : Response) : State := { s with ring := s.ring.respond a }

/-- The request in execution is answered and handed back (R184). -/
def State.finish (s : State) (a : Response) : State :=
  { s with ring := { s.ring.respond a with exec := none } }

/-! ## Slots -/

/-- What the part holds for a slot. -/
def State.slot (s : State) (n : SlotId) : Slot := s.slots.get n

/-- One slot changed; its status entry becomes stale if a value it shows has changed (R189). -/
def State.modSlot (s : State) (n : SlotId) (f : Slot → Slot) : State :=
  { s with
    slots := s.slots.set n.val (f (s.slot n)) n.isLt
    ring := if (f (s.slot n)).shown = (s.slot n).shown then s.ring else s.ring.markStale (.slot n) }

/-- A slot counter changed (R26). -/
def Slot.count (sl : Slot) (f : Counters → Counters) : Slot := { sl with counters := f sl.counters }

/-! ## Places (R63) -/

/-- How many of the eight places the partly received frame holds. -/
def Slot.partlyPlaces (sl : Slot) : Nat := if sl.partly.isSome then 1 else 0

/-- In translated and fence intake, with the link up, every free place is granted at once (R63). -/
def Slot.regrant (sl : Slot) : Slot :=
  if sl.linkUp = true ∧ (sl.intake = .translated ∨ sl.intake = .fence) then
    { sl with placesOpen := 8 - sl.ingress.length - sl.partlyPlaces }
  else sl

/-! ## Losing the link -/

/-- The partly received write is discarded, and counted in TORN in the states of R67; a frame being discarded for
want of a place is gone with it. -/
def Slot.discardPartly (sl : Slot) : Slot :=
  { sl with
    partly := none
    broken := false
    counters := if sl.partly.isSome && sl.state.countsTorn then sl.counters.addTorn else sl.counters }

/-- The link goes down under the interface: places open 0, the partly received write discarded, and what the link
held or had not carried lost (R157). -/
def Slot.loseLink (sl : Slot) : Slot :=
  { sl.discardPartly with linkUp := false, placesOpen := 0, heldBack := [], dataOut := [] }

/-- LINK_EN is deasserted: the link is lost, the tag-in-use set emptied, intake none (R64, R67, R69), and a probe
outcome not yet taken is void (R54). -/
def Slot.isolated (sl : Slot) : Slot :=
  { sl.loseLink with linkEn := false, intake := .none, tags := Vector.replicate 16 false, outcome := none }

/-- `isolated` for one slot of the part. -/
def State.isolate (s : State) (n : SlotId) : State := s.modSlot n Slot.isolated

/-- A DATA frame handed to the slot's link; its tag leaves the tag-in-use set (R69, R79). -/
def Slot.sendData (sl : Slot) (f : DataFrame) : Slot :=
  { sl with dataOut := sl.dataOut ++ [f], tags := sl.tags.set f.tag.val false f.tag.isLt }

/-! ## Tracker entries (R107, R108, R116, R125) -/

/-- The entry of a memory tag. -/
def State.entry (s : State) (t : MemTag) : Entry := s.trk.entries.get t

/-- An entry rewritten. -/
def State.setEntry (s : State) (t : MemTag) (e : Entry) : State :=
  { s with trk := { s.trk with entries := s.trk.entries.set t.val e t.isLt } }

/-- An entry becomes FREE, which is reported to the Scrub Engine: its deferral count is set to 0 (R132, R171). -/
def State.freeEntry (s : State) (t : MemTag) : State :=
  { s.setEntry t Entry.free with scrub := { s.scrub with deferral := 0 } }

/-- ISSUED, LATE and WAITING: the states that count at the arbiter and for a drain (R108). -/
def EntryState.inFlight : EntryState → Bool
  | .issued | .late | .waiting => true
  | .free | .orphan => false

/-- ISSUED and LATE: sent, the completion still owed to an owner. -/
def EntryState.outstanding : EntryState → Bool
  | .issued | .late => true
  | .free | .waiting | .orphan => false

/-- The in-flight count of a participant (R108). -/
def State.inFlight (s : State) (p : Participant) : Nat :=
  s.trk.entries.toList.countP fun e => e.state.inFlight && e.who == p

/-- How many entries of a slot are LATE (R136). -/
def State.lateCount (s : State) (n : SlotId) : Nat :=
  s.trk.entries.toList.countP fun e => e.state == .late && e.who == .slot n

/-- The orphan count of a slot (R144). -/
def State.orphanCount (s : State) (n : SlotId) : Nat :=
  s.trk.entries.toList.countP fun e => e.state == .orphan && e.who == .slot n

/-- A slot is drained: its ingress queue is empty and its in-flight count is 0 (R1, R133). -/
def State.drained (s : State) (n : SlotId) : Bool :=
  (s.slot n).ingress.isEmpty && s.inFlight (.slot n) == 0

/-- The lowest-numbered FREE entry (R114). -/
def State.freeTag (s : State) : Option MemTag :=
  (List.finRange 64).find? fun t => (s.entry t).state == .free

/-- The order to orphan a slot's ISSUED and LATE entries of the kinds that `sel` names, in its current incarnation
(R125). An entry made ORPHAN gives up a kept answer. -/
def Entry.orphaned (e : Entry) (n : SlotId) (inc : Half) (sel : AccessKind → Bool) : Entry :=
  if e.who = .slot n ∧ e.incarnation = inc ∧ e.state.outstanding = true ∧ sel e.kind = true then
    { e with state := .orphan, held := .none }
  else e

/-- `Entry.orphaned` over the tracker. -/
def State.orphan (s : State) (n : SlotId) (sel : AccessKind → Bool) : State :=
  { s with
    trk := { s.trk with
      entries := Vector.ofFn fun t => (s.entry t).orphaned n (s.slot n).incarnation sel } }

/-- Whether the order to free waiting entries frees this one (R125). -/
def Entry.freedWaiting (e : Entry) (n : SlotId) (inc : Half) : Bool :=
  decide (e.who = .slot n ∧ e.incarnation = inc ∧ e.state = .waiting)

/-- The order to free a slot's WAITING entries; each freeing is reported to the Scrub Engine (R125, R132). -/
def State.freeWaiting (s : State) (n : SlotId) : State :=
  { s with
    trk := { s.trk with
      entries := Vector.ofFn fun t =>
        if (s.entry t).freedWaiting n (s.slot n).incarnation then Entry.free else s.entry t }
    scrub :=
      if s.trk.entries.toList.any (fun e => e.freedWaiting n (s.slot n).incarnation) then
        { s.scrub with deferral := 0 }
      else s.scrub }

/-- The order to discard a slot's queued reads (R75). -/
def Slot.discardReads (sl : Slot) : Slot :=
  { sl with ingress := sl.ingress.filter fun q => match q.body with
      | .read _ => false
      | .write _ => true }

/-- How many writes an ingress queue holds. -/
def Slot.queuedWrites (sl : Slot) : Nat :=
  sl.ingress.countP fun q => match q.body with
    | .read _ => false
    | .write _ => true

/-- The order to discard a slot's queued writes, each counted in DROPPED (R75). -/
def Slot.discardWrites (sl : Slot) : Slot :=
  { sl with
    counters := sl.counters.addDropped sl.queuedWrites
    ingress := sl.ingress.filter fun q => match q.body with
      | .read _ => true
      | .write _ => false }

/-! ## The Extent Table (R83, R88, R89, R104) -/

/-- An extent's record; a number that names no record reads as FREE. -/
def State.extent (s : State) (x : Nat) : Extent :=
  if h : x < 2048 then s.ext.records.get ⟨x, h⟩ else Extent.free

/-- An extent's record rewritten; the header and its extent map beat become stale as the values they show change
(R104, R189). -/
def State.setExtent (s : State) (x : Nat) (e : Extent) : State :=
  if h : x < 2048 then
    let old := (s.ext.records.get ⟨x, h⟩).state
    let r := if e.state.countClass = old.countClass then s.ring else s.ring.markStale .header
    { s with
      ext := { s.ext with records := s.ext.records.set x e h }
      ring := if e.state.mapCode = old.mapCode then r else r.markStale (.extentMap ⟨x / 32, by omega⟩) }
  else s

/-- An extent joins the tail of the scrub queue: the header shows the length, and the deferral count is set to 0
(R85, R171). -/
def State.joinScrub (s : State) (x : Nat) : State :=
  { s with
    ext := { s.ext with queue := s.ext.queue ++ [x] }
    scrub := { s.scrub with deferral := 0 }
    ring := s.ring.markStale .header }

/-- An extent becomes DIRTY and joins the scrub queue (R85). -/
def State.makeDirty (s : State) (x : Nat) : State := (s.setExtent x Extent.dirty).joinScrub x

/-- The release of one extent by a slot (R88). -/
def State.releaseExtent (s : State) (n : SlotId) (x : Nat) : State :=
  let e := s.extent x
  match e.state with
  | .owned => if e.owner = some n then s.makeDirty x else s
  | .shared =>
    if e.withdrawn = true ∧ e.refs - 1 = 0 then s.makeDirty x else s.setExtent x { e with refs := e.refs - 1 }
  | .free | .dirty | .scrubbing | .bad => s

/-- The release of several extents, in the order of the list (R89). -/
def State.releaseExtents (s : State) (n : SlotId) (xs : List Nat) : State :=
  xs.foldl (fun s x => s.releaseExtent n x) s

/-- The release of a slot's whole committed map, in ascending index order; the map is then empty (R25, R89). -/
def State.releaseMap (s : State) (n : SlotId) : State :=
  (s.releaseExtents n ((mapEntries (s.slot n).map).map MapEntry.extent)).modSlot n
    fun sl => { sl with map := Vector.replicate 32 none }

/-! ## The Sideband Engine's jobs (R32, R33, R38) -/

/-- The slot a job addresses. -/
def Job.slot : Job → SlotId
  | .identity n _ => n
  | .request n _ _ _ _ => n

/-- Free places are filled from the waiting identity set, lowest slot number first (R33). -/
def fillJobs (q : List Job) : List SlotId → List Job × List SlotId
  | [] => (q, [])
  | n :: ns => if q.length < 16 then fillJobs (q ++ [.identity n []]) ns else (q, n :: ns)

/-- `fillJobs` on the engine. -/
def Sideband.fill (sb : Sideband) : Sideband :=
  { sb with queue := (fillJobs sb.queue sb.waiting).1, waiting := (fillJobs sb.queue sb.waiting).2 }

/-- An access of the job `j` starts: its timeout starts, and LINE_CHECK ends at once where SBDAT is already high (R31). -/
def Sideband.startAccess (sb : Sideband) (j : Job) (now : Nat) (low : Bool) : Sideband :=
  { sb with
    running := some j
    phase := if low then .lineCheck else .command
    phaseEnds := now + 18
    started := now
    expired := false
    failed := false }

/-- The running job has ended and its line is idle: no job runs, and the access phase is IDLE (R30, R32). -/
def Sideband.idle (sb : Sideband) : Sideband :=
  { sb with running := none, phase := .idle, phaseEnds := 0, started := 0, expired := false, failed := false }

/-- When no job runs, the head of the job queue becomes the running job, the place it leaves is filled, and its first
access enters LINE_CHECK (R32). -/
def State.startJob (s : State) : State :=
  match s.sb.running, s.sb.queue with
  | none, j :: rest =>
    { s with sb := ({ s.sb with queue := rest } : Sideband).fill.startAccess j s.now (s.slot j.slot).sbdatLow }
  | none, [] | some _, _ => s

/-- After a place came free or a job ended: fill from the waiting identity set, then take the next head (R32). -/
def State.nextJob (s : State) : State := ({ s with sb := s.sb.fill } : State).startJob

/-- The answer to a SIDEBAND request (R37, 11.4). -/
def sidebandAnswer (n : SlotId) (seq : Half) (st : Status) (reg : Byte) (data : Half) : Response :=
  ⟨st, BitVec.ofNat 8 (slotNumber n), 10, seq, .sideband reg data⟩

/-- A cancelled job: a request job is answered NO_BLADE with data 0, an identity job ends without outcome (R38). -/
def State.cancelJob (s : State) (j : Job) : State :=
  match j with
  | .identity _ _ => s
  | .request n _ reg _ seq => s.respond (sidebandAnswer n seq .noBlade reg 0)

/-- The engine without a slot's jobs: the queued ones and its place in the waiting identity set removed, and a running one
abandoned with its access, no stop mark sent (R38, R39). -/
def Sideband.dropJobs (sb : Sideband) (n : SlotId) : Sideband :=
  let kept := { sb with
    queue := sb.queue.filter fun j => j.slot != n
    waiting := sb.waiting.filter fun m => m != n }
  if sb.running.any (fun j => j.slot == n) then kept.idle else kept

/-- A slot's jobs are cancelled: the running one and the queued ones, in that order; the freed places are filled,
and the next job starts (R38, R39, log 20). -/
def State.cancelJobs (s : State) (n : SlotId) : State :=
  let mine := (s.sb.running.toList ++ s.sb.queue).filter fun j => j.slot == n
  (mine.foldl State.cancelJob { s with sb := s.sb.dropJobs n }).nextJob

/-- A slot number put into the waiting identity set (R33). -/
def insertSlot (n : SlotId) : List SlotId → List SlotId
  | [] => [n]
  | m :: ms => if n = m then m :: ms else if n < m then n :: m :: ms else m :: insertSlot n ms

/-- An identity job handed over: to the tail of the queue, or into the waiting identity set when the queue is full
(R33). -/
def State.handIdentity (s : State) (n : SlotId) : State :=
  let sb := if s.sb.queue.length < 16 then { s.sb with queue := s.sb.queue ++ [.identity n []] }
    else { s.sb with waiting := insertSlot n s.sb.waiting }
  ({ s with sb := sb } : State).startJob

/-- PWR_EN is deasserted: the slot's jobs are cancelled, and its management line is released (R29, R38). -/
def State.powerOff (s : State) (n : SlotId) : State :=
  (s.cancelJobs n).modSlot n fun sl => { sl with pwrEn := false, sbdatLow := false }

end Sys2Proof.Machine
end

