-- ==== Sys2Proof/Machine/Transitions.lean ====
section
/-! DEFINITION. The slot transitions that several commands make: the frames taken at intake, the entries to states,
the drains and their ends. -/

namespace Sys2Proof.Machine

/-! ## Frames at intake (chapters 3 and 4) -/

/-- A glitch in PROBING (R50): counted, the place advertised again, the probe ended at the glitch limit. -/
def Slot.glitch (sl : Slot) (limit : Nat) : Slot :=
  { sl with
    counters := sl.counters.addGlitch
    glitches := sl.glitches + 1
    partly := none
    placesOpen := if limit ≤ sl.glitches + 1 then 0 else 1
    outcome := if limit ≤ sl.glitches + 1 then some .glitchLimit else none }

/-- A probe candidate at progress 0 or 1 compared with its pattern (R47). -/
def Slot.comparePattern (sl : Slot) (expected v : Beat) : Slot :=
  if v = expected then { sl with progress := sl.progress + 1, placesOpen := 1, partly := none }
  else { sl with laneMask := v ^^^ expected, outcome := some .laneMismatch, placesOpen := 0, partly := none }

/-- A probe candidate at progress 2 compared with the key (R48). -/
def Slot.compareKey (sl : Slot) (v : Beat) : Slot :=
  { sl with
    outcome := some (if v = probeKey sl.identity then .keyAccepted else .wrongKey)
    placesOpen := 0
    partly := none }

/-- The probe checker examines a frame taken against a place (R46 to R50). -/
def Slot.examine (sl : Slot) (limit : Nat) (candidate : Option Beat) : Slot :=
  match candidate with
  | none => sl.glitch limit
  | some v =>
    if sl.progress = 0 then sl.comparePattern (BitVec.allOnes 64) v
    else if sl.progress = 1 then sl.comparePattern 0 v
    else sl.compareKey v

/-- A refused blade access: counted in VIOLATION, and posted when it raises the counter from 0 (R72). -/
def State.violation (s : State) (n : SlotId) (kind : AccessKind) (h : FrameHeader) (c : ViolationCause) : State :=
  let first := (s.slot n).counters.violation
  let s1 := s.modSlot n fun sl => (sl.count Counters.addViolation).regrant
  if first = 0 then s1.postEvent (.violation n (s.slot n).incarnation kind (violationPage c h) c) else s1

/-- A frame discarded and counted in PROTOCOL; its place, if it held one, is freed (R61, R65, R68). -/
def Slot.protocolError (sl : Slot) : Slot := (sl.count Counters.addProtocol).regrant

/-- A READ in translated or fence intake that holds a place: form, tag, then fence or translation (R68 to R76). -/
def State.admitRead (s : State) (n : SlotId) (f : ReadFrame) : State :=
  let sl := s.slot n
  if headerOk f.head = false then s.modSlot n Slot.protocolError
  else if sl.tags.get f.tag = true then s.modSlot n Slot.protocolError
  else if sl.intake = .fence then
    s.modSlot n fun sl => ((sl.sendData ⟨f.tag, .retired, []⟩).count Counters.addFenced).regrant
  else match translateCheck sl.map sl.maxBeats .read f.head with
    | .error c => (s.modSlot n fun sl => sl.sendData ⟨f.tag, c.status, []⟩).violation n .read f.head c
    | .ok e => s.modSlot n fun sl => Slot.regrant
        { sl with
          tags := sl.tags.set f.tag.val true f.tag.isLt
          ingress := sl.ingress ++ [⟨translate s.ext.base e f.head, f.head.beats, .read f.tag⟩] }

/-- A WRITE in translated or fence intake that holds a place: form, then fence or translation (R61, R70, R76). -/
def State.admitWrite (s : State) (n : SlotId) (f : WriteFrame) : State :=
  let sl := s.slot n
  if writeOk f = false then s.modSlot n Slot.protocolError
  else if sl.intake = .fence then s.modSlot n fun sl => (sl.count Counters.addFenced).regrant
  else match translateCheck sl.map sl.maxBeats .write f.head with
    | .error c => s.violation n .write f.head c
    | .ok e => s.modSlot n fun sl => Slot.regrant
        { sl with ingress := sl.ingress ++ [⟨translate s.ext.base e f.head, f.head.beats, .write f.data⟩] }

/-- A READ frame arrives (R64, R65). -/
def State.takeRead (s : State) (n : SlotId) (f : ReadFrame) : State :=
  let sl := s.slot n
  match sl.intake with
  | .none => s
  | .closed => s.modSlot n fun sl => { sl with heldBack := sl.heldBack ++ [.read f] }
  | .probe =>
    if sl.placesOpen = 0 then s.modSlot n fun sl => sl.count Counters.addProtocol
    else s.modSlot n fun sl => sl.glitch s.params.glitchLimit
  | .translated | .fence =>
    if sl.placesOpen = 0 then s.modSlot n fun sl => sl.count Counters.addProtocol else s.admitRead n f

/-- A WRITE frame that holds a place ends: the header that arrived with its start is its header (R66). -/
def State.endWrite (s : State) (n : SlotId) (f : WriteFrame) : State :=
  let s1 := s.modSlot n fun sl => { sl with partly := none }
  if (s.slot n).intake = .probe then
    s1.modSlot n fun sl => sl.examine s.params.glitchLimit (probeCandidate f)
  else s1.admitWrite n f

/-- A WRITE frame ends (R64 to R66): one that started with no place open is discarded and counted in PROTOCOL. -/
def State.takeWrite (s : State) (n : SlotId) (f : WriteFrame) : State :=
  let sl := s.slot n
  match sl.intake with
  | .none => s
  | .closed => s.modSlot n fun sl => { sl with heldBack := sl.heldBack ++ [.write f] }
  | .probe | .translated | .fence =>
    if sl.broken = true then s.modSlot n fun sl => { sl.count Counters.addProtocol with broken := false }
    else match sl.partly with
      | some h => s.endWrite n { f with head := h }
      | none =>
        if sl.placesOpen = 0 then s.modSlot n fun sl => sl.count Counters.addProtocol else s.endWrite n f

/-- A WRITE frame starts (R63, R65, R66). One frame arrives at a time. -/
def State.takeStart (s : State) (n : SlotId) (h : FrameHeader) : State :=
  let sl := s.slot n
  match sl.intake with
  | .none => s
  | .closed => s.modSlot n fun sl => { sl with heldBack := sl.heldBack ++ [.start h] }
  | .probe | .translated | .fence =>
    if sl.partly.isSome = true ∨ sl.broken = true then s
    else if sl.placesOpen = 0 then s.modSlot n fun sl => { sl with broken := true }
    else s.modSlot n fun sl => { sl with placesOpen := sl.placesOpen - 1, partly := some h }

/-- What the link carries from the blade is taken. -/
def State.takeItem (s : State) (n : SlotId) (i : LinkItem) : State :=
  match i with
  | .start h => s.takeStart n h
  | .read f => s.takeRead n f
  | .write f => s.takeWrite n f

/-- Intake opens after a hold: every free place is granted, and the frames that the link held back are taken in the
order sent (R64, R65). -/
def State.reopen (s : State) (n : SlotId) (mode : Intake) : State :=
  let s1 := s.modSlot n fun sl => Slot.regrant { sl with intake := mode, heldBack := [] }
  (s.slot n).heldBack.foldl (fun s i => s.takeItem n i) s1

/-! ## Entries to states before traffic -/

/-- Entry to EMPTY (R23). -/
def Slot.toEmpty (sl : Slot) : Slot :=
  { sl with
    state := .empty
    staging := Vector.replicate 32 none
    identityOk := false
    timer := .stopped
    effCredit := 0
    fault := none
    removeOk := false }

/-- Entry to SEATING: the debounce starts and the forced flag is cleared (R9). -/
def Slot.toSeating (sl : Slot) (now debounce : Nat) : Slot :=
  { sl with state := .seating, forced := false, timer := .running now (debounce * 1000) }

/-- Entry to SEATING at the present moment. -/
def State.seat (s : State) (n : SlotId) : State :=
  s.modSlot n fun sl => sl.toSeating s.now s.params.debounce

/-- Entry to IDENTIFYING: the power limit stops, and an identity job is handed over (R10, R33). -/
def State.identify (s : State) (n : SlotId) : State :=
  (s.modSlot n fun sl => { sl with state := .identifying, timer := .stopped }).handIdentity n

/-- Entry to POWERING: PWR_EN asserted, the power limit started; a PWR_GOOD level already up is taken at once (R9,
R10, R22). -/
def State.powerUp (s : State) (n : SlotId) : State :=
  let s1 := s.modSlot n fun sl =>
    { sl with
      state := .powering
      pwrEn := true
      removeOk := false
      timer := .running s.now (s.params.powerLimit * 1000) }
  if (s.slot n).pwrGood = true then s1.identify n else s1

/-! ## Ends -/

/-- LINK_EN and then PWR_EN deasserted, and the committed map released: what every end of a slot's activity does
(R6, R20, R23, R144). -/
def State.shutDown (s : State) (n : SlotId) : State := ((s.isolate n).powerOff n).releaseMap n

/-- The record of a slot that is RETIRED. -/
def Slot.toRetired (sl : Slot) : Slot :=
  { sl with state := .retired, pendingFault := none, effCredit := 0, timer := .stopped, removeOk := true }

/-- The record of a slot that is FAULTED. -/
def Slot.toFaulted (sl : Slot) (c : FaultCause) : Slot :=
  { sl with
    state := .faulted
    fault := some c
    pendingFault := none
    effCredit := 0
    timer := .stopped
    removeOk := true }

/-- The lane fault mask that event FAULTED carries: 0 unless LANE (11.4). -/
def faultMask (sl : Slot) (c : FaultCause) : Beat := if c = .lane then sl.laneMask else 0

/-- Entry to FAULTED other than at a drain end (R6, R154). DESIGN CHOICE (log 40): the NO_BLADE answers of the jobs
cancelled at the entry (R38) are handed over before the event FAULTED; R6 and R38 give the two no order. -/
def State.faultSlot (s : State) (n : SlotId) (c : FaultCause) : State :=
  let sl := s.slot n
  ((s.shutDown n).modSlot n fun sl => sl.toFaulted c).postEvent
    (.faulted n sl.incarnation sl.forced 0 c (faultMask sl c))

/-- The cause that a pending fault ends in (R21). -/
def PendingFault.cause : PendingFault → FaultCause
  | .powerLost => .powerLost
  | .link => .link

/-- The drain end in RETIRING (R144). -/
def State.endDrain (s : State) (n : SlotId) : State :=
  let sl := s.slot n
  let s1 := s.shutDown n
  match sl.pendingFault with
  | none => (s1.modSlot n Slot.toRetired).postEvent (.retired n sl.incarnation sl.forced (s.orphanCount n))
  | some p => (s1.modSlot n fun sl => sl.toFaulted p.cause).postEvent
      (.faulted n sl.incarnation sl.forced (s.orphanCount n) p.cause 0)

/-- The drain of a RETIRING slot evaluated (R133). -/
def State.settleRetiring (s : State) (n : SlotId) : State := if s.drained n = true then s.endDrain n else s

/-- The record after VACATING (R151). -/
def Slot.afterVacating (sl : Slot) (now debounce : Nat) : Slot :=
  let sl1 := { sl with effCredit := 0, identityOk := false, seated := false }
  if sl.present = true then sl1.toSeating now debounce
  else if sl.seated = true then (sl1.toEmpty).count Counters.addBounce
  else sl1.toEmpty

/-- The VACATING end (R151). -/
def State.endVacating (s : State) (n : SlotId) : State :=
  let sl := s.slot n
  ((s.releaseMap n).postEvent (.vacated n sl.incarnation sl.forced (s.orphanCount n) sl.seated)).modSlot n
    fun sl => sl.afterVacating s.now s.params.debounce

/-- The drain of a VACATING slot evaluated (R133). -/
def State.settleVacating (s : State) (n : SlotId) : State := if s.drained n = true then s.endVacating n else s

/-- HOLDING goes to HELD (R136). -/
def State.completeHold (s : State) (n : SlotId) : State :=
  (s.modSlot n fun sl => { sl with state := .held, timer := .stopped }).postEvent (.held n (s.slot n).incarnation)

/-- The drain of a HOLDING slot evaluated (R133). -/
def State.settleHolding (s : State) (n : SlotId) : State := if s.drained n = true then s.completeHold n else s

/-! ## Drains -/

/-- Whether a kind is a read. -/
def isRead : AccessKind → Bool
  | .read => true
  | .write => false

/-- Whether a kind is a write. -/
def isWrite : AccessKind → Bool
  | .read => false
  | .write => true

/-- The slot's reads are given up: the queued discarded, the ISSUED and LATE orphaned, the WAITING freed, the hold
list emptied (R75, R125). -/
def State.dropReads (s : State) (n : SlotId) : State :=
  ((s.orphan n isRead).freeWaiting n).modSlot n fun sl => { sl.discardReads with holdList := [] }

/-- The link-down drain rules begin in a RETIRING slot whose pending fault is set (R141, steps 1, 3, 4 and 6). -/
def State.linkDownDrain (s : State) (n : SlotId) : State := ((s.isolate n).dropReads n).settleRetiring n

/-- Entry to RETIRING with a pending fault or none: forced flag and resume state cleared, the drain limit started. -/
def Slot.toRetiring (sl : Slot) (p : Option PendingFault) (now limit : Nat) : Slot :=
  { sl with
    state := .retiring
    resume := none
    forced := false
    pendingFault := p
    timer := .running now (limit * 1000) }

/-- `Slot.toRetiring` at the present moment. -/
def State.toRetiring (s : State) (n : SlotId) (p : Option PendingFault) : State :=
  s.modSlot n fun sl => sl.toRetiring p s.now s.params.drainLimit

/-- The effect of an accepted RETIRE, and of an ejector opened with auto-retire, by state (R20, R139, R164). DESIGN CHOICE
(log 38): in POWERING, IDENTIFYING, PENDING and PROBING the NO_BLADE answers of the cancelled jobs (R38) are handed over
before the event RETIRED, to which no rule orders them there; at a drain end R144 does. -/
def State.retireSlot (s : State) (n : SlotId) : State :=
  match (s.slot n).state with
  | .powering | .identifying | .pending | .probing =>
    ((s.shutDown n).modSlot n Slot.toRetired).postEvent (.retired n (s.slot n).incarnation false 0)
  | .settling | .live | .holding | .held =>
    let s1 := s.toRetiring n none
    if s1.drained n = true then s1.endDrain n else s1.reopen n .fence
  | .grace => (s.toRetiring n none).linkDownDrain n
  | .empty | .seating | .retiring | .retired | .faulted | .vacating => s

/-- Entry to VACATING by a presence drop in a traffic state, GRACE or RETIRING (R24, R148). DESIGN CHOICE (log 39): the
NO_BLADE answers of the jobs cancelled at the entry are handed over before the event REMOVED; R148 takes both in one step
and gives them no order. -/
def State.vacate (s : State) (n : SlotId) : State :=
  let sl := s.slot n
  let s1 := ((s.isolate n).powerOff n).modSlot n fun sl =>
    { sl with
      state := .vacating
      resume := none
      pendingFault := none
      forced := false
      seated := false
      timer := .running s.now (s.params.drainLimit * 1000) }
  ((s1.dropReads n).postEvent (.removed n sl.incarnation true sl.state)).settleVacating n

end Sys2Proof.Machine
end

