-- ==== Sys2Proof/Machine/SidebandEngine.lean ====
section
/-! DEFINITION. The Sideband Engine's running access: its phases in time, the ends of an access and of a job; and time,
which passes in microseconds, each with what it does to that access. -/

namespace Sys2Proof.Machine

/-- Whether the running job's access is a write. -/
def Job.isWrite : Job → Bool
  | .identity _ _ => false
  | .request _ w _ _ _ => w

/-- The phase after COMMAND: WRITE_DATA for a write, ACK_WAIT for a read (R30). -/
def Sideband.afterCommand (sb : Sideband) : Sideband :=
  if sb.running.any Job.isWrite then { sb with phase := .writeData, phaseEnds := sb.phaseEnds + 32 }
  else { sb with phase := .ackWait }

/-- One phase that has run out by the moment `now` ends (R30). -/
def Sideband.pass (sb : Sideband) (now : Nat) : Sideband :=
  match sb.phase with
  | .command => if sb.phaseEnds ≤ now then sb.afterCommand else sb
  | .writeData => if sb.phaseEnds ≤ now then { sb with phase := .ackWait } else sb
  | .readData => if sb.phaseEnds ≤ now then { sb with phase := .stop, phaseEnds := sb.phaseEnds + 2 } else sb
  | .idle | .lineCheck | .ackWait | .stop => sb

/-- The moment at which the running access's sideband timeout expires (R28, R31). -/
def Sideband.expiry (sb : Sideband) : Nat := sb.started + sb.timeout * 10

/-- The running access's timeout has expired before the moment `now`: its expiry has been taken, or its moment has passed
(R31). -/
def Sideband.overdue (sb : Sideband) (now : Nat) : Bool := sb.expired || decide (sb.expiry < now)

/-- The running access has failed with TIMEOUT in ACK_WAIT at the moment `now`: the stop mark follows on its line, and the
job that addresses the line runs until the mark is sent (R29, R30, R31). -/
def Sideband.sendStopMark (sb : Sideband) (now : Nat) : Sideband :=
  { sb with phase := .stop, phaseEnds := now + 2, expired := false, failed := true }

/-- The identity check: the 16-bit sum of the words is 0 and word 2 is 1 to 16 (R35). -/
def identityPasses (words : List Half) : Bool :=
  decide (words.foldl (· + ·) 0 = 0) && decide (1 ≤ (words.getD 2 0).toNat ∧ (words.getD 2 0).toNat ≤ 16)

/-- Eight words as the slot record stores them. -/
def identityVector (words : List Half) : Vector Half 8 := Vector.ofFn fun i => words.getD i.val 0

/-- The outcome *success* taken in IDENTIFYING: the words stored, PENDING, event PRESENT (R11, R35). -/
def State.identified (s : State) (n : SlotId) (words : List Half) : State :=
  (s.modSlot n fun sl =>
    { sl with state := .pending, timer := .stopped, identity := identityVector words, identityOk := true }).postEvent
    (.present n (s.slot n).incarnation (identityVector words))

/-- The outcomes *timeout* and *bad check* taken in IDENTIFYING (R11, R35). -/
def State.identityFailed (s : State) (n : SlotId) (c : FaultCause) : State :=
  (s.modSlot n fun sl => { sl with identityOk := false }).faultSlot n c

/-- The outcome of an identity job reported to the Admission Controller, which takes it in IDENTIFYING alone (R35). -/
def State.identityOutcome (s : State) (n : SlotId) (words : Option (List Half)) : State :=
  if (s.slot n).state = .identifying then
    match words with
    | none => s.identityFailed n .identityTimeout
    | some w => if identityPasses w = true then s.identified n w else s.identityFailed n .identityCheck
  else s

/-- The running job ends with TIMEOUT: a request job is answered, an identity job ends with outcome *timeout*, and the next
job is taken (R31, R32, R34, R37). -/
def State.failJob (s : State) : State :=
  let s1 : State := { s with sb := s.sb.idle }
  match s.sb.running with
  | none => s
  | some (.request n _ reg _ seq) => (s1.respond (sidebandAnswer n seq .timeout reg 0)).nextJob
  | some (.identity n _) => (s1.identityOutcome n none).nextJob

/-- The running access has succeeded: a request job is answered OK, an identity job reads its next register or, after
the eighth, reports its outcome; then the next job is taken (R34, R35, R37). -/
def State.succeedAccess (s : State) (data : Half) : State :=
  let s1 : State := { s with sb := s.sb.idle }
  match s.sb.running with
  | none => s
  | some (.request n w reg d seq) =>
    (s1.respond (sidebandAnswer n seq .ok reg (if w then d else data))).nextJob
  | some (.identity n words) =>
    if words.length < 7 then
      { s with sb := s.sb.startAccess (.identity n (words ++ [data])) s.now (s.slot n).sbdatLow }
    else (s1.identityOutcome n (some (words ++ [data]))).nextJob

/-- The running access fails with TIMEOUT: in ACK_WAIT its stop mark is sent, in LINE_CHECK its job ends at once, since the
line cannot carry one (R31). -/
def State.failAccess (s : State) : State :=
  if s.sb.phase = .ackWait then { s with sb := s.sb.sendStopMark s.now } else s.failJob

/-! ## Time (log 5) -/

/-- The expiry of the running access's timeout has come and is taken: in LINE_CHECK and ACK_WAIT the access fails, on the
entry to ACK_WAIT also one whose expiry came before (R31). -/
def State.failOverdue (s : State) : State :=
  match s.sb.phase with
  | .lineCheck | .ackWait => if s.sb.expired = true ∨ s.sb.expiry ≤ s.now then s.failAccess else s
  | .idle | .command | .writeData | .readData | .stop => s

/-- In LINE_CHECK, whether the blade has released the line by the present moment is free (log 10); once SBDAT is high the
command is sent (R31). -/
def State.sampleLine (s : State) : State :=
  match s.sb.phase, s.sb.running with
  | .lineCheck, some j =>
    if Config.sbdatReleased s.drawn then
      { s.modSlot j.slot fun sl => { sl with sbdatLow := false } with
        drawn := s.drawn + 1
        sb := { s.sb with phase := .command, phaseEnds := s.now + 18 } }
    else { s with drawn := s.drawn + 1 }
  | .lineCheck, none | .idle, _ | .command, _ | .writeData, _ | .ackWait, _ | .readData, _ | .stop, _ => s

/-- The stop mark of a failed access has been sent: its job ends (R30, R31, R32). -/
def State.endFailed (s : State) : State :=
  if s.sb.failed = true ∧ s.sb.phase = .stop ∧ s.sb.phaseEnds ≤ s.now then s.failJob else s

/-- One microsecond passes: an expiry that has come and that no command of this moment went before is taken, then the
phases of the running access and the stop mark of a failed one run out in time (R30, R31, log 9). -/
def State.tick (s : State) : State :=
  let s1 := ({ s.failOverdue with now := s.now + 1 } : State).sampleLine
  ({ s1 with sb := s1.sb.pass s1.now } : State).endFailed

/-- `k` microseconds pass. -/
def State.elapse (s : State) : Nat → State
  | 0 => s
  | k + 1 => s.tick.elapse k

/-- The timebase has reached the moment `t`, if it had not. -/
def State.reach (s : State) (t : Nat) : State := s.elapse (t - s.now)

end Sys2Proof.Machine
end

