-- ==== Sys2Proof/Machine/ScrubOps.lean ====
section
/-! DEFINITION. The Scrub Engine's take and the end of its pass (chapter 9). -/

namespace Sys2Proof.Machine

/-- The memory address of an extent (R82), as a number. -/
def ExtentTable.addressOf (t : ExtentTable) (x : Nat) : Nat := t.base.toNat + x * 65536

/-- Whether an entry addresses an extent: not FREE, and its bytes share one with the extent's (R131). -/
def Entry.addresses (e : Entry) (base : Nat) : Bool :=
  decide (e.state ≠ .free) && overlaps e.addr.toNat (8 * e.beats) base 65536

/-- The tracker's answer to the Scrub Engine (R131). -/
def State.addressed (s : State) (x : Nat) : Bool :=
  s.trk.entries.toList.any fun e => e.addresses (s.ext.addressOf x)

/-- Whether the engine may take a head: attached, idle and not waiting (R168, R170). -/
def State.scrubReady (s : State) : Bool :=
  decide (s.ring.state = .attached ∧ s.scrub.current = none ∧ s.scrub.deferral < s.ext.queue.length)

/-- One take of the head of the scrub queue: deferred to the tail while an entry addresses it, else SCRUBBING (R170).
The queue's length is shown in the header. -/
def State.scrubTake (s : State) : State :=
  match s.ext.queue with
  | [] => s
  | x :: rest =>
    if s.scrubReady = false then s
    else if s.addressed x then
      { s with
        ext := { s.ext with queue := rest ++ [x] }
        scrub := { s.scrub with deferral := s.scrub.deferral + 1 } }
    else
      let s1 := s.setExtent x ⟨.scrubbing, none, 0, false⟩
      { s1 with
        ext := { s1.ext with queue := rest }
        scrub := ⟨some x, 0, 0, 0, 0, 0⟩
        ring := s1.ring.markStale .header }

/-- Whether SCRUB holds an entry in ISSUED or LATE (R174). -/
def State.scrubOutstanding (s : State) : Bool :=
  s.trk.entries.toList.any fun e => e.state.outstanding && e.who == .scrub

/-- An acknowledgement of a scrub write (R173). -/
def ScrubEngine.ack (e : ScrubEngine) (ok timedOut : Bool) : ScrubEngine :=
  { e with
    acks := e.acks + 1
    errors := if ok then e.errors else e.errors + 1
    timeouts := if timedOut then e.timeouts + 1 else e.timeouts }

/-- The end of a pass over extent `x` (R174, R175). -/
def State.endPass (s : State) (x : Nat) : State :=
  let good := s.scrub.errors = 0
  let s1 := s.setExtent x ⟨if good then .free else .bad, none, 0, false⟩
  let s2 := if good then s1 else s1.postEvent (.extentBad x s.scrub.errors s.scrub.timeouts)
  let s3 : State := { s2 with scrub := ⟨none, 0, 0, 0, 0, s2.scrub.deferral⟩ }
  if s3.ext.queue = [] then s3.postEvent (.scrubIdle (s3.ext.countOf 0) (s3.ext.countOf 4)) else s3.scrubTake

end Sys2Proof.Machine
end

