-- ==== Sys2Proof/Machine/RingOps.lean ====
section
/-! DEFINITION. The Ring Interface's operations: the ring request queue, the ownership mirror, fetched records, the
attach, and the end of DRAINING (chapter 10). -/

namespace Sys2Proof.Machine

/-! ## The ring request queue (R188) -/

/-- A request joins the ring request queue, or waits for a place of it (R188, log 18). -/
def Ring.enqueue (r : Ring) (op : RingOp) : Ring :=
  if r.queue.length < 16 ∧ r.waiting = [] then { r with queue := r.queue ++ [op] }
  else { r with waiting := r.waiting ++ [op] }

/-- Free places are given to the requests that wait, oldest first. -/
def fillOps (q : List RingOp) : List RingOp → List RingOp × List RingOp
  | [] => (q, [])
  | op :: ops => if q.length < 16 then fillOps (q ++ [op]) ops else (q, op :: ops)

/-- `fillOps` on the ring. -/
def Ring.refill (r : Ring) : Ring :=
  { r with queue := (fillOps r.queue r.waiting).1, waiting := (fillOps r.queue r.waiting).2 }

/-- How many places of the ring request queue are free for its other users. -/
def Ring.freePlaces (r : Ring) : Nat := if r.waiting = [] then 16 - r.queue.length else 0

/-- Whether the held record's conditions other than the places hold, so that its take goes before status and
response writes (R184, R188). -/
def Ring.takeDue (r : Ring) : Bool :=
  decide (r.state = .attached ∧ r.held.isSome = true ∧ r.exec = none ∧ r.pend.length + r.reserved < 32)

/-! ## The ownership mirror and ATTN (R186, R187) -/

/-- The mirror of a response entry; an index beyond it reads FULL, so that no write is queued for it. -/
def Ring.mirrorAt (r : Ring) (i : Nat) : Mirror := if h : i < 256 then r.mirror.get ⟨i, h⟩ else .full

/-- The mirror of an entry changes; ATTN is asserted exactly when some entry is FULL (R187). -/
def Ring.setMirror (r : Ring) (i : Nat) (m : Mirror) : Ring :=
  if h : i < 256 then
    { r with mirror := r.mirror.set i m h, attn := (r.mirror.set i m h).toList.any fun v => v == .full }
  else r

/-- DRAINING ends (R191). -/
def Ring.endDraining (r : Ring) : Ring :=
  { r with
    mirror := Vector.replicate 256 .empty
    attn := false
    consumer := 0
    producer := 0
    state := .detached }

/-- A response write has been completed, timed out or orphaned: WRITING becomes FULL (R186), and the DETACH response's
write ends DRAINING (R191). -/
def Ring.responseDone (r : Ring) (i : Nat) (last : Bool) : Ring :=
  let r1 := if r.mirrorAt i = .writing then r.setMirror i .full else r
  if last = true ∧ r1.state = .draining then r1.endDraining else r1

/-- The owner byte of a ring entry. -/
def ownerAddress (base : Addr) (i : Nat) : Nat := base.toNat + 32 * i + 31

/-- A granted control write returns every FULL response entry whose owner byte it covers with EMPTY (R179, R186). -/
def Ring.handBack (r : Ring) (w : ControlReq) : Ring :=
  if r.state = .detached then r
  else (List.range (min r.respSize 256)).foldl (fun r i =>
    if controlCovers w (ownerAddress r.respBase i) = some 0 ∧ r.mirrorAt i = .full then r.setMirror i .empty else r) r

/-! ## Fetched records (R183) -/

/-- A fetched request ring entry becomes the held record if it qualifies, and is dropped otherwise (R183). -/
def Ring.fetched (r : Ring) (idx : Nat) (data : List Beat) : Ring :=
  if r.state = .attached ∧ idx = r.consumer ∧ ownerByte data = 1 ∧ r.held = none then
    { r with held := some (Request.parse data) }
  else r

/-! ## Attach (R181, R182) -/

/-- The address of the attach page that the straps select (R181). -/
def State.attachPage (s : State) : Nat := s.attachSel.toNat * 4096

/-- Whether an entry keeps an attach BUSY: a participant other than CONTROL, a trailing fetch, or a CONTROL write into
the region judged (R128). -/
def Entry.keepsBusy (e : Entry) (base len : Nat) : Bool :=
  decide (e.state ≠ .free) &&
    (match e.who with
    | .control =>
      (match e.tag with
        | .trailing _ => true
        | .none | .blade _ | .control _ | .ring _ | .scrub _ => false) ||
      (e.kind == .write && overlaps e.addr.toNat (8 * e.beats) base len)
    | .slot _ | .ring | .scrub => true)

/-- The tracker's answer to the attach decision (R128). -/
def State.attachBusy (s : State) (r : AttachRecord) : Bool :=
  s.trk.entries.toList.any fun e => e.keepsBusy r.managedBase (r.extentCount * 65536)

/-- The Ring Interface at an OK result: the geometry, the indices, the mirror, the result write, ATTACHED, the
read-ahead of entry 0 and every unit stale (R182, steps 1, 2, 4, 5, 6). -/
def Ring.attach (r : Ring) (a : AttachRecord) : Ring :=
  let r1 := r.enqueue (.attachResult .ok 0)
  let r2 := { r1 with
    reqBase := BitVec.ofNat 40 a.reqBase
    reqSize := a.reqSize
    respBase := BitVec.ofNat 40 a.respBase
    respSize := a.respSize
    statusBase := BitVec.ofNat 40 a.statusBase
    consumer := 0
    producer := 0
    mirror := Vector.replicate 256 .empty
    attn := false
    lost := 0
    state := .attached
    stale := allUnits }
  (r2.postEvent (.attached a.extentCount a.scrubAtAttach a.autoRetire)).enqueue (.fetch 0)

/-- The extent records after an attach (R83). -/
def attachRecords (count : Nat) (scrub : Bool) : Vector Extent 2048 :=
  if scrub then
    ⟨⟨List.replicate (min count 2048) Extent.dirty ++ List.replicate (2048 - count) Extent.free⟩, by simp; omega⟩
  else Vector.replicate 2048 Extent.free

/-- The Extent Table at an OK result (R82, R83, R101). -/
def attachExtents (a : AttachRecord) : ExtentTable where
  records := attachRecords a.extentCount a.scrubAtAttach
  queue := if a.scrubAtAttach then List.range a.extentCount else []
  count := a.extentCount
  base := BitVec.ofNat 40 a.managedBase
  fill := a.fill
  discards := 0

/-- The timer values, limits and options of an attach record (R182, step 3). -/
def AttachRecord.params (a : AttachRecord) : Params :=
  ⟨a.debounce, a.powerLimit, a.probeLimit, a.glitchLimit, a.rampStep, a.grace, a.holdLimit, a.drainLimit,
    a.autoRetire⟩

/-- A slot at an attach: its ejector level is its debounced EJECT level, and with presence up it goes to SEATING
(R8). -/
def Slot.atAttach (sl : Slot) (now debounce : Nat) : Slot :=
  if sl.present then { sl with ejectorOpen := sl.eject }.toSeating now debounce
  else { sl with ejectorOpen := sl.eject }

/-- An OK result attaches the part (R182). -/
def State.attach (s : State) (a : AttachRecord) : State :=
  State.scrubTake
    { s with
      ring := s.ring.attach a
      ext := attachExtents a
      scrub := ScrubEngine.reset
      params := a.params
      sb := { s.sb with timeout := a.sidebandTimeout }
      trk := { s.trk with timeout := a.completionTimeout, pace := a.scrubPace }
      slots := Vector.ofFn fun n => (s.slot n).atAttach s.now a.debounce }

/-- The result write of an attach that leaves the part DETACHED (R182). -/
def State.attachRefused (s : State) (st : Status) (field : Nat) : State :=
  { s with ring := s.ring.enqueue (.attachResult st field) }

/-- A fetched attach record: dropped outside DETACHED or without the marker, else checked and judged (R181). -/
def State.attachFetched (s : State) (data : List Beat) : State :=
  if s.ring.state ≠ .detached ∨ hasMarker data = false then s
  else
    let a := AttachRecord.parse data
    match a.failing s.attachPage with
    | some k => s.attachRefused .badField k
    | none => if s.attachBusy a then s.attachRefused .busy 0 else s.attach a

/-- A fetch completed with status OK is handed to the Ring Interface (R181, R183). -/
def State.fetched (s : State) (f : FetchTarget) (data : List Beat) : State :=
  match f with
  | .attachRecord => s.attachFetched data
  | .ringEntry idx => { s with ring := s.ring.fetched idx data }

end Sys2Proof.Machine
end

