-- ==== Sys2Proof/Machine/PortOps.lean ====
section
/-! DEFINITION. The memory port: eligibility, the grant of each kind of participant, and what a completion or a passed
deadline does by entry state (chapter 6; R100 to R102; R178, R179). -/

namespace Sys2Proof.Machine

/-! ## Eligibility and rotation (R110, R111, R113) -/

/-- The fixed circle of participants (R110). -/
def circle : List Participant := (List.finRange 14).map .slot ++ [.control, .ring, .scrub]

/-- The circle in the order in which a decision looks at it: the participant after the pointer first, the pointer last
(R110). -/
def circleFrom (p : Participant) : List Participant := circle.drop p.code ++ circle.take p.code

/-- Whether SCRUB's pace is met (R113). -/
def State.paceMet (s : State) : Bool :=
  match s.trk.lastScrub with
  | none => true
  | some t => decide (t + s.trk.pace ≤ s.now)

/-- Whether a status write is ISSUED, so that RING's head is not presented (R188). -/
def State.statusWriteIssued (s : State) : Bool :=
  s.trk.entries.toList.any fun e => decide (e.state = .issued ∧ e.who = .ring) &&
    (match e.tag with
      | .ring (.status _) => true
      | .ring (.fetch _) | .ring .taken | .ring (.response _ _) | .ring .attachResult => false
      | .none | .blade _ | .control _ | .trailing _ | .scrub _ => false)

/-- A participant's cap (R111). -/
def State.cap (s : State) (p : Participant) : Nat :=
  match p with
  | .slot n => (s.slot n).effCredit
  | .control => 16
  | .ring => 2
  | .scrub => 2

/-- Whether a participant presents a head (R110, R172, R188). -/
def State.hasHead (s : State) (p : Participant) : Bool :=
  match p with
  | .slot n => !(s.slot n).ingress.isEmpty
  | .control => !s.ctl.queue.isEmpty
  | .ring => !s.ring.queue.isEmpty && !s.statusWriteIssued
  | .scrub => s.scrub.current.isSome && decide (s.scrub.granted < 256) && s.paceMet

/-- A participant is eligible, given that an entry is FREE (R111). -/
def State.eligible (s : State) (p : Participant) : Bool :=
  s.hasHead p && decide (s.inFlight p < s.cap p)

/-! ## The grant (R114) -/

/-- The request of a grant takes its entry and is sent on the memory link; the pointer is set to the grantee (R114). -/
def State.issue (s : State) (t : MemTag) (p : Participant) (inc : Half) (kind : AccessKind) (tag : RequesterTag)
    (addr : Addr) (beats : Nat) (data : List MaskedBeat) : State :=
  { s with
    trk := { s.trk with
      entries := s.trk.entries.set t.val ⟨.issued, p, inc, kind, tag, addr, beats, s.now + s.trk.timeout, .none⟩ t.isLt
      link := s.trk.link ++ [⟨t, kind, addr, beats, data⟩]
      pointer := p } }

/-- The grant of a slot's head; the place it held is granted again (R74). -/
def State.grantSlot (s : State) (t : MemTag) (n : SlotId) : State :=
  let sl := s.slot n
  match sl.ingress with
  | [] => s
  | q :: rest =>
    let s1 := s.modSlot n fun sl => Slot.regrant { sl with ingress := rest }
    match q.body with
    | .read tag => s1.issue t (.slot n) sl.incarnation .read (.blade tag) q.addr q.beats []
    | .write data => s1.issue t (.slot n) sl.incarnation .write .none q.addr q.beats data

/-- Requests held back on the control link are taken, in the order sent, as places are free; a malformed one is
answered MEMORY_ERROR and takes none (R178). -/
def pullControl (q : List ControlItem) (ans : List ControlAnswer) :
    List ControlReq → List ControlItem × List ControlAnswer × List ControlReq
  | [] => (q, ans, [])
  | r :: rs =>
    if 16 ≤ q.length then (q, ans, r :: rs)
    else if controlQueueable r then pullControl (q ++ [.request r]) ans rs
    else pullControl q (ans ++ [⟨r.tag, .memoryError, []⟩]) rs

/-- `pullControl` on the port. -/
def ControlPort.pull (c : ControlPort) : ControlPort :=
  let r := pullControl c.queue c.answers c.heldBack
  ⟨r.1, r.2.2, r.2.1⟩

/-- The address of a request ring entry (11.3). -/
def Ring.reqAddress (r : Ring) (idx : Nat) : Addr := r.reqBase + BitVec.ofNat 40 (32 * idx)

/-- The grant of a trailing fetch: a CONTROL read that carries the Ring Interface's reference (R178). -/
def State.grantTrailing (s : State) (t : MemTag) (f : FetchTarget) (rest : List ControlItem) : State :=
  let s1 : State := { s with ctl := ({ s.ctl with queue := rest } : ControlPort).pull }
  match f with
  | .attachRecord => s1.issue t .control 0 .read (.trailing f) (BitVec.ofNat 40 s.attachPage) 16 []
  | .ringEntry idx => s1.issue t .control 0 .read (.trailing f) (s.ring.reqAddress idx) 4 []

/-- An extent passes a control write when OWNED or SHARED, and a control read when FREE, OWNED or SHARED (R101,
R102). -/
def ExtentState.passes (st : ExtentState) (kind : AccessKind) : Bool :=
  match st with
  | .owned | .shared => true
  | .free => isRead kind
  | .dirty | .scrubbing | .bad => false

/-- Whether a control request is blocked at its grant: attached, and some extent it touches does not pass (R100). -/
def State.blocked (s : State) (r : ControlReq) : Bool :=
  decide (s.ring.state = .attached) &&
    (touchedExtents s.ext.base s.ext.count r.addr r.beats).any fun x => !(s.extent x).state.passes r.kind

/-- A beat of the fill pattern (R82). -/
def ExtentTable.fillBeat (t : ExtentTable) : Beat := t.fill.replicate 8

/-- A blocked request is answered FILLED without a memory access; a write raises the control-discard count (R101,
R102). It counts as a grant to CONTROL for the rotation (R114). -/
def State.answerFilled (s : State) (r : ControlReq) (rest : List ControlItem) : State :=
  let data := if isRead r.kind then List.replicate r.beats s.ext.fillBeat else []
  let ctl : ControlPort := { s.ctl with queue := rest, answers := s.ctl.answers ++ [⟨r.tag, .filled, data⟩] }
  let s1 : State := { s with ctl := ctl.pull, trk := { s.trk with pointer := .control } }
  if isWrite r.kind then
    { s1 with
      ext := { s1.ext with discards := satInc32 s1.ext.discards }
      ring := s1.ring.markStale .header }
  else s1

/-- The trailing fetch that a granted write attaches (R179). -/
def State.trailingOf (s : State) (r : ControlReq) : Option FetchTarget :=
  match s.ring.state with
  | .detached =>
    if (List.range 8).map (fun i => controlCovers r (s.attachPage + i)) = markerBytes.map some then some .attachRecord
    else none
  | .attached =>
    if controlCovers r (ownerAddress s.ring.reqBase s.ring.consumer) = some 1 then some (.ringEntry s.ring.consumer)
    else none
  | .draining => none

/-- The grant of a control request that passes (R100, R178, R179). -/
def State.grantRequest (s : State) (t : MemTag) (r : ControlReq) (rest : List ControlItem) : State :=
  let ctl : ControlPort := match s.trailingOf r with
    | some f => { s.ctl with queue := .trailing f :: rest }
    | none => ({ s.ctl with queue := rest } : ControlPort).pull
  ({ s with ctl := ctl, ring := s.ring.handBack r } : State).issue t .control 0 r.kind (.control r.tag) r.addr r.beats
    r.data

/-- The grant of CONTROL's head. -/
def State.grantControl (s : State) (t : MemTag) : State :=
  match s.ctl.queue with
  | [] => s
  | .trailing f :: rest => s.grantTrailing t f rest
  | .request r :: rest => if s.blocked r then s.answerFilled r rest else s.grantRequest t r rest

/-- What a RING request sends: kind, reference, address, beats and write data, a status unit with the values current
at the grant (R188, R189, R193). -/
def State.ringRequest (s : State) (op : RingOp) : AccessKind × RingRef × Addr × Nat × List MaskedBeat :=
  let r := s.ring
  match op with
  | .fetch idx => (.read, .fetch idx, r.reqAddress idx, 4, [])
  | .taken idx =>
    (.write, .taken, r.reqAddress idx + 24, 1, [⟨0x80, 0x0200000000000000⟩])
  | .response idx rec =>
    (.write, .response idx rec.endsDraining, r.respBase + BitVec.ofNat 40 (32 * idx), 4, writeBeats rec.fields 4)
  | .status .header => (.write, .status .header, r.statusBase, 8, writeBeats (headerFields s.ext r) 8)
  | .status (.slot n) =>
    (.write, .status (.slot n), r.statusBase + BitVec.ofNat 40 (64 + 32 * n.val), 4,
      writeBeats (s.slot n).statusFields 4)
  | .status (.extentMap k) =>
    (.write, .status (.extentMap k), r.statusBase + BitVec.ofNat 40 (512 + 8 * k.val), 1,
      [⟨0xFF, BitVec.ofNat 64 (extentMapValue s.ext k.val)⟩])
  | .attachResult st field =>
    (.write, .attachResult, BitVec.ofNat 40 (s.attachPage + 120), 1,
      [⟨0xFF, BitVec.ofNat 64 (st.code + 256 * field)⟩])

/-- The grant of RING's head; the place it leaves goes to a request that waits (R188). -/
def State.grantRing (s : State) (t : MemTag) : State :=
  match s.ring.queue with
  | [] => s
  | op :: rest =>
    let q := s.ringRequest op
    ({ s with ring := Ring.refill { s.ring with queue := rest } } : State).issue t .ring 0 q.1 (.ring q.2.1) q.2.2.1
      q.2.2.2.1 q.2.2.2.2

/-- The grant of SCRUB's head: write `k` of the current extent (R172). -/
def State.grantScrub (s : State) (t : MemTag) : State :=
  match s.scrub.current with
  | none => s
  | some x =>
    let k := s.scrub.granted
    let s1 := s.issue t .scrub 0 .write (.scrub k) (BitVec.ofNat 40 (s.ext.addressOf x + 256 * k)) 32
      (List.replicate 32 ⟨0xFF, s.ext.fillBeat⟩)
    { s1 with
      scrub := { s1.scrub with granted := k + 1 }
      trk := { s1.trk with lastScrub := some s.now } }

/-- The grant to a participant with a FREE entry at hand. -/
def State.grantTo (s : State) (t : MemTag) (p : Participant) : State :=
  match p with
  | .slot n => s.grantSlot t n
  | .control => s.grantControl t
  | .ring => s.grantRing t
  | .scrub => s.grantScrub t

/-- One decision of the arbiter (R110, R112). -/
def State.decideGrant (s : State) : State :=
  match s.freeTag, (circleFrom s.trk.pointer).find? s.eligible with
  | some t, some p => s.grantTo t p
  | some _, none => s
  | none, _ => s

/-! ## Completions (R116 to R126) -/

/-- The completion ends its request on the memory link, the oldest with its tag (R105, R106, log 16). -/
def eraseRequest (t : MemTag) : List MemRequest → List MemRequest
  | [] => []
  | r :: rs => if r.memTag = t then rs else r :: eraseRequest t rs

/-- MEMERR counted, and MEMORY_WRITE_ERROR posted, for a write of a slot that failed (R118, R124, R126). -/
def State.slotWriteError (s : State) (n : SlotId) (e : Entry) (st : EntryState) : State :=
  (s.modSlot n fun sl => sl.count Counters.addMemerr).postEvent
    (.memoryWriteError (.slot n) e.incarnation e.addr e.beats st)

/-- A completion of a slot read whose entry is ISSUED (R117). -/
def State.completeRead (s : State) (t : MemTag) (n : SlotId) (e : Entry) (tag : BladeTag) (ok : Bool)
    (data : List Beat) : State :=
  let s1 := if ok then s else s.modSlot n fun sl => sl.count Counters.addMemerr
  let sl := s.slot n
  if sl.canReceive = true ∧ e.incarnation = sl.incarnation then
    (s1.freeEntry t).modSlot n fun sl => sl.sendData (if ok then ⟨tag, .ok, data⟩ else ⟨tag, .memoryError, []⟩)
  else if sl.state = .grace then
    (s1.setEntry t { e with state := .waiting, held := .completion ok (if ok then data else []) }).modSlot n
      fun sl => { sl with holdList := sl.holdList ++ [t] }
  else s1.freeEntry t

/-- The answer of a CONTROL completion (R119). -/
def controlAnswer (tag : ControlTag) (kind : AccessKind) (ok : Bool) (data : List Beat) : ControlAnswer :=
  if ok then ⟨tag, .ok, if isRead kind then data else []⟩ else ⟨tag, .memoryError, []⟩

/-- An answer sent on the control link. -/
def State.answerControl (s : State) (a : ControlAnswer) : State :=
  { s with ctl := { s.ctl with answers := s.ctl.answers ++ [a] } }

/-- A completion of a CONTROL request whose entry is ISSUED (R119). -/
def State.completeControl (s : State) (t : MemTag) (e : Entry) (ok : Bool) (data : List Beat) : State :=
  let s1 := s.freeEntry t
  match e.tag with
  | .control c => s1.answerControl (controlAnswer c e.kind ok data)
  | .trailing f => if ok then s1.fetched f data else s1
  | .none | .blade _ | .ring _ | .scrub _ => s1

/-- MEMORY_WRITE_ERROR for a RING write that failed (R118, R124, R126). -/
def State.ringWriteError (s : State) (e : Entry) (st : EntryState) : State :=
  s.postEvent (.memoryWriteError .ring 0 e.addr e.beats st)

/-- What the end of a RING request does at the Ring Interface (R183, R186, R188). -/
def Ring.ended (r : Ring) (ref : RingRef) : Ring :=
  match ref with
  | .response idx last => r.responseDone idx last
  | .fetch _ | .taken | .status _ | .attachResult => r

/-- A completion of a RING request whose entry is ISSUED (R118, R183, R186). -/
def State.completeRing (s : State) (t : MemTag) (e : Entry) (ok : Bool) (data : List Beat) : State :=
  let s1 := s.freeEntry t
  let s2 := if ok = false ∧ e.kind = .write then s1.ringWriteError e .issued else s1
  match e.tag with
  | .ring (.fetch idx) => if ok then s2.fetched (.ringEntry idx) data else s2
  | .ring (.response idx last) => { s2 with ring := s2.ring.ended (.response idx last) }
  | .ring .taken | .ring (.status _) | .ring .attachResult => s2
  | .none | .blade _ | .control _ | .trailing _ | .scrub _ => s2

/-- A completion that finds its entry ISSUED (R117 to R119). -/
def State.completeIssued (s : State) (t : MemTag) (e : Entry) (ok : Bool) (data : List Beat) : State :=
  match e.who with
  | .slot n =>
    match e.kind, e.tag with
    | .read, .blade tag => s.completeRead t n e tag ok data
    | .read, .none | .read, .control _ | .read, .trailing _ | .read, .ring _ | .read, .scrub _ => s.freeEntry t
    | .write, _ => if ok then s.freeEntry t else (s.freeEntry t).slotWriteError n e .issued
  | .control => s.completeControl t e ok data
  | .ring => s.completeRing t e ok data
  | .scrub =>
    let s1 := s.freeEntry t
    { s1 with scrub := s1.scrub.ack ok false }

/-- A completion that finds its entry LATE (R124). -/
def State.completeLate (s : State) (t : MemTag) (e : Entry) (ok : Bool) : State :=
  match e.who with
  | .slot n =>
    let s1 := s.modSlot n fun sl => sl.count Counters.addLate
    if e.held = .timeout then s1.setEntry t { e with state := .waiting }
    else if ok = false ∧ e.kind = .write then (s1.freeEntry t).slotWriteError n e .late
    else s1.freeEntry t
  | .ring => if ok = false ∧ e.kind = .write then (s.freeEntry t).ringWriteError e .late else s.freeEntry t
  | .control | .scrub => s.freeEntry t

/-- A completion that finds its entry ORPHAN (R126). -/
def State.completeOrphan (s : State) (t : MemTag) (e : Entry) (ok : Bool) : State :=
  let s1 := s.freeEntry t
  if ok = false ∧ e.kind = .write ∧ s.ring.state = .attached then
    match e.who with
    | .slot n => s1.slotWriteError n e .orphan
    | .ring => s1.ringWriteError e .orphan
    | .control | .scrub => s1
  else s1

/-- A completion by the state of the entry it names; FREE and WAITING make it a stray (R116, R120). -/
def State.complete (s : State) (t : MemTag) (ok : Bool) (data : List Beat) : State :=
  let s1 : State := { s with trk := { s.trk with link := eraseRequest t s.trk.link } }
  let e := s.entry t
  match e.state with
  | .issued => s1.completeIssued t e ok data
  | .late => s1.completeLate t e ok
  | .orphan => s1.completeOrphan t e ok
  | .free | .waiting => s1

/-! ## The completion timeout (R121) -/

/-- The deadline of an ISSUED slot entry passes (R121). -/
def State.slotTimeout (s : State) (t : MemTag) (n : SlotId) (e : Entry) : State :=
  let s1 := s.modSlot n fun sl => sl.count Counters.addTimeout
  match e.kind, e.tag with
  | .read, .blade tag =>
    if (s.slot n).canReceive = true then
      (s1.setEntry t { e with state := .late }).modSlot n fun sl => sl.sendData ⟨tag, .timeout, []⟩
    else if (s.slot n).state = .grace then
      (s1.setEntry t { e with state := .late, held := .timeout }).modSlot n
        fun sl => { sl with holdList := sl.holdList ++ [t] }
    else s1.setEntry t { e with state := .late }
  | .read, .none | .read, .control _ | .read, .trailing _ | .read, .ring _ | .read, .scrub _
  | .write, _ => s1.setEntry t { e with state := .late }

/-- The deadline of an ISSUED entry passes: LATE, and the requester is answered (R121). -/
def State.deadlinePassed (s : State) (t : MemTag) (e : Entry) : State :=
  let s1 := s.setEntry t { e with state := .late }
  match e.who with
  | .slot n => s.slotTimeout t n e
  | .control =>
    match e.tag with
    | .control c => s1.answerControl ⟨c, .timeout, []⟩
    | .none | .blade _ | .trailing _ | .ring _ | .scrub _ => s1
  | .ring =>
    match e.tag with
    | .ring ref => { s1 with ring := s1.ring.ended ref }
    | .none | .blade _ | .control _ | .trailing _ | .scrub _ => s1
  | .scrub => { s1 with scrub := s1.scrub.ack false true }

end Sys2Proof.Machine
end

