-- ==== Sys2Proof/Machine/Lines.lean ====
section
/-! DEFINITION. RESET and the edges of the slot lines: RESET, PRESENCE_RISE, PRESENCE_DROP, EJECTOR_OPENED,
EJECTOR_CLOSED, PWR_GOOD_RISE, PWR_GOOD_DROP. -/

namespace Sys2Proof.Machine

/-- Whether the part is attached; it is detached after RESET and after a DETACH request (00 "Terms"). -/
def State.attached (s : State) : Bool := decide (s.ring.state = .attached)

/-! ## RESET (R27, R28, R60, R83, R109, R168, R178, R180) -/

/-- The Ring Interface after RESET keeps its geometry (R180). -/
def Ring.atReset (r : Ring) : Ring :=
  { Ring.reset with
    reqBase := r.reqBase, reqSize := r.reqSize, respBase := r.respBase, respSize := r.respSize,
    statusBase := r.statusBase }

/-- The RESET pin asserted and deasserted (log 7). The requests on the memory link are the memory controller's
(R106), those held back on the control link are taken afterwards (R178), and the attach values that hold until the
next attach stand. -/
def State.resetPin (s : State) : State :=
  { s with
    slots := Vector.replicate 14 Slot.reset
    sb := { Sideband.reset with timeout := s.sb.timeout }
    trk := { Tracker.reset with link := s.trk.link }
    ext := { s.ext with records := Vector.replicate 2048 Extent.free, queue := [], count := 0 }
    scrub := ScrubEngine.reset
    ctl := ({ s.ctl with queue := [] } : ControlPort).pull
    ring := s.ring.atReset }

/-- RESET. -/
def execReset (s : State) : StepResult := .next s.resetPin

/-! ## Presence (R9, R23, R24) -/

/-- A debounced presence rise. -/
def State.presenceRise (s : State) (n : SlotId) : State :=
  let s1 := s.modSlot n fun sl => { sl with present := true }
  if s.attached = false then s1
  else match (s.slot n).state with
    | .empty => s1.seat n
    | .vacating => s1.modSlot n fun sl => { sl with seated := true }
    | .seating | .powering | .identifying | .pending | .probing | .settling | .live | .holding | .held | .grace
    | .retiring | .retired | .faulted => s1

/-- PRESENCE_RISE (R9, R24). -/
def execPresenceRise (n : SlotId) (s : State) : StepResult := .next (s.presenceRise n)

/-- A presence drop in a state that goes to EMPTY (R23): the blade was pulled before it had traffic, or when it might
be. DESIGN CHOICE (log 40): the NO_BLADE answers of the jobs that the drop cancels in POWERING, IDENTIFYING, PENDING and
PROBING (R38) are handed over before the event REMOVED; R23 and R38 give the two no order. -/
def State.pullOut (s : State) (n : SlotId) : State :=
  let sl := s.slot n
  ((s.shutDown n).modSlot n Slot.toEmpty).postEvent (.removed n sl.incarnation false sl.state)

/-- A debounced presence drop, by state (R23). -/
def State.presenceDrop (s : State) (n : SlotId) : State :=
  let s1 := s.modSlot n fun sl => { sl with present := false }
  if s.attached = false then s1
  else match (s.slot n).state with
    | .empty | .vacating => s1
    | .seating => s1.modSlot n fun sl => (sl.toEmpty).count Counters.addBounce
    | .powering | .identifying | .pending | .probing | .retired | .faulted => s1.pullOut n
    | .settling | .live | .holding | .held | .grace | .retiring => s1.vacate n

/-- PRESENCE_DROP (R23). -/
def execPresenceDrop (n : SlotId) (s : State) : StepResult := .next (s.presenceDrop n)

/-! ## The ejector (R19) -/

/-- An ejector edge: the level recorded, and EJECTOR posted outside EMPTY and SEATING. -/
def State.ejectorEdge (s : State) (n : SlotId) (opened : Bool) : State :=
  let s1 := s.modSlot n fun sl => { sl with eject := opened, ejectorOpen := opened }
  if s.attached = true ∧ (s.slot n).state.postsEjector = true then
    s1.postEvent (.ejector n (s.slot n).incarnation opened)
  else s1

/-- The states in which an opening with auto-retire retires the slot: the traffic states and GRACE (R19). -/
def SlotState.autoRetires (st : SlotState) : Bool := st.traffic || decide (st = .grace)

/-- A debounced ejector opening (R19). -/
def State.ejectorOpened (s : State) (n : SlotId) : State :=
  let s1 := s.ejectorEdge n true
  if s.attached = true ∧ s.params.autoRetire = true ∧ (s.slot n).state.autoRetires = true then s1.retireSlot n else s1

/-- EJECTOR_OPENED (R19). -/
def execEjectorOpened (n : SlotId) (s : State) : StepResult := .next (s.ejectorOpened n)

/-- EJECTOR_CLOSED (R19). -/
def execEjectorClosed (n : SlotId) (s : State) : StepResult := .next (s.ejectorEdge n false)

/-! ## PWR_GOOD (R10, R18, R166) -/

/-- A debounced PWR_GOOD rise (R10). -/
def State.pwrGoodRise (s : State) (n : SlotId) : State :=
  let s1 := s.modSlot n fun sl => { sl with pwrGood := true }
  if s.attached = true ∧ (s.slot n).state = .powering then s1.identify n else s1

/-- PWR_GOOD_RISE (R10). -/
def execPwrGoodRise (n : SlotId) (s : State) : StepResult := .next (s.pwrGoodRise n)

/-- A power loss in a traffic state or GRACE (R18, R166). -/
def State.losePower (s : State) (n : SlotId) : State :=
  (((s.isolate n).powerOff n).toRetiring n (some .powerLost)).linkDownDrain n

/-- A power loss in RETIRING with PWR_EN asserted: the drain limit goes on (R18, R141). -/
def State.losePowerRetiring (s : State) (n : SlotId) : State :=
  (((s.isolate n).powerOff n).modSlot n fun sl => { sl with pendingFault := some .powerLost }).linkDownDrain n

/-- A debounced PWR_GOOD drop, by state (R18). -/
def State.pwrGoodDrop (s : State) (n : SlotId) : State :=
  let s1 := s.modSlot n fun sl => { sl with pwrGood := false }
  if s.attached = false then s1
  else match (s.slot n).state with
    | .identifying | .pending | .probing => s1.faultSlot n .powerLost
    | .settling | .live | .holding | .held | .grace => s1.losePower n
    | .retiring => if (s.slot n).pwrEn = true then s1.losePowerRetiring n else s1
    | .empty | .seating | .powering | .retired | .faulted | .vacating => s1

/-- PWR_GOOD_DROP (R18). -/
def execPwrGoodDrop (n : SlotId) (s : State) : StepResult := .next (s.pwrGoodDrop n)

end Sys2Proof.Machine
end

