-- ==== Sys2Proof/Machine/Timers.lean ====
section
/-! DEFINITION. The expiries of the slot timer, each acting only in the state that started it (R3), and the ends of
the drains. -/

namespace Sys2Proof.Machine

/-- The moment a slot's timer is due has been reached (log 5). -/
def State.reachDue (s : State) (n : SlotId) : State := s.reach (s.slot n).timer.due

/-- An expiry taken in the state that started the timer; in any other it has no effect (R3). -/
def State.expiry (s : State) (n : SlotId) (st : SlotState) (f : State → State) : State :=
  if (s.slot n).state = st then f (s.reachDue n) else s

/-- DEBOUNCE_EXPIRY (R9). -/
def execDebounceExpiry (n : SlotId) (s : State) : StepResult :=
  .next (s.expiry n .seating fun s => s.powerUp n)

/-- POWER_LIMIT_EXPIRY (R10). -/
def execPowerLimitExpiry (n : SlotId) (s : State) : StepResult :=
  .next (s.expiry n .powering fun s => s.faultSlot n .powerTimeout)

/-- PROBE_LIMIT_EXPIRY (R51). -/
def execProbeLimitExpiry (n : SlotId) (s : State) : StepResult :=
  .next (s.expiry n .probing fun s => s.faultSlot n .probeTimeout)

/-- A SETTLING or PROBING slot whose credit is reached goes to LIVE (R14, R55, R56, R58). -/
def State.goLive (s : State) (n : SlotId) (credit : Nat) : State :=
  (s.modSlot n fun sl => { sl with state := .live, timer := .stopped, effCredit := credit }).postEvent
    (.live n (s.slot n).incarnation credit)

/-- One raise of the credit (R56). -/
def State.rampStep (s : State) (n : SlotId) : State :=
  let credit := (s.slot n).effCredit + 1
  if credit = (s.slot n).cfgCredit then s.goLive n credit
  else s.modSlot n fun sl => { sl with effCredit := credit, timer := .running s.now (s.params.rampStep * 10) }

/-- RAMP_STEP_EXPIRY (R56). -/
def execRampStepExpiry (n : SlotId) (s : State) : StepResult :=
  .next (s.expiry n .settling fun s => s.rampStep n)

/-- A hold that failed: back to LIVE, intake open, HOLD_FAILED with the counts at the expiry (R136). -/
def State.failHold (s : State) (n : SlotId) : State :=
  let sl := s.slot n
  let s1 := s.modSlot n fun sl => { sl with state := .live, timer := .stopped }
  (s1.reopen n .translated).postEvent
    (.holdFailed n sl.incarnation sl.ingress.length (s.inFlight (.slot n)) (s.lateCount n))

/-- HOLD_LIMIT_EXPIRY (R136). -/
def execHoldLimitExpiry (n : SlotId) (s : State) : StepResult :=
  .next (s.expiry n .holding fun s => s.failHold n)

/-- GRACE_EXPIRY (R163). -/
def execGraceExpiry (n : SlotId) (s : State) : StepResult :=
  .next (s.expiry n .grace fun s => (s.toRetiring n (some .link)).linkDownDrain n)

/-- The forced end of a drain in RETIRING (R143). -/
def State.forceDrain (s : State) (n : SlotId) : State :=
  let s1 := s.modSlot n fun sl => sl.discardWrites.discardReads
  let s2 := (s1.orphan n fun _ => true).freeWaiting n
  (s2.modSlot n fun sl => { sl with forced := true, holdList := [] }).endDrain n

/-- DRAIN_LIMIT_EXPIRY (R143). -/
def execDrainLimitExpiry (n : SlotId) (s : State) : StepResult :=
  .next (s.expiry n .retiring fun s => s.forceDrain n)

/-- The forced end of VACATING (R150). -/
def State.forceVacating (s : State) (n : SlotId) : State :=
  let s1 := s.modSlot n fun sl => sl.discardWrites
  let s2 := s1.orphan n isWrite
  (s2.modSlot n fun sl => { sl with forced := true }).endVacating n

/-- VACATING_DRAIN_LIMIT_EXPIRY (R150). -/
def execVacatingDrainLimitExpiry (n : SlotId) (s : State) : StepResult :=
  .next (s.expiry n .vacating fun s => s.forceVacating n)

/-! ## Drains found complete (R133) -/

/-- A drain's end taken in its state, when the slot is drained (log 12). -/
def State.whenDrained (s : State) (n : SlotId) (st : SlotState) (f : State → State) : State :=
  if (s.slot n).state = st ∧ s.drained n = true then f s else s

/-- DRAIN_END (R144). -/
def execDrainEnd (n : SlotId) (s : State) : StepResult := .next (s.whenDrained n .retiring fun s => s.endDrain n)

/-- HOLD_DRAIN_COMPLETE (R136). -/
def execHoldDrainComplete (n : SlotId) (s : State) : StepResult :=
  .next (s.whenDrained n .holding fun s => s.completeHold n)

/-- VACATING_END (R151). -/
def execVacatingEnd (n : SlotId) (s : State) : StepResult :=
  .next (s.whenDrained n .vacating fun s => s.endVacating n)

end Sys2Proof.Machine
end

