-- ==== Sys2Proof/Machine/Link.lean ====
section
/-! DEFINITION. The slot link: LINK_UP, LINK_DOWN, FRAME_START, READ_FRAME, WRITE_FRAME, and the probe outcomes
KEY_ACCEPTED and PROBE_FAULT. -/

namespace Sys2Proof.Machine

/-- Whether the slot's link carries frames: LINK_EN asserted and the link reported up (R16, R45). -/
def Slot.linkCarries (sl : Slot) : Bool := sl.linkEn && sl.linkUp

/-! ## Link down (R16, R157, R165) -/

/-- Entry to GRACE (R157). -/
def State.enterGrace (s : State) (n : SlotId) : State :=
  let sl := s.slot n
  (s.modSlot n fun sl =>
    { sl.loseLink with
      state := .grace
      resume := some sl.state
      timer := .running s.now s.params.grace }).postEvent
    (.linkLost n sl.incarnation sl.state sl.partly.isSome (s.inFlight (.slot n)))

/-- A link loss with a grace of 0 (R165). -/
def State.loseLinkForGood (s : State) (n : SlotId) : State :=
  let sl := s.slot n
  (((s.modSlot n Slot.loseLink).postEvent
    (.linkLost n sl.incarnation sl.state sl.partly.isSome (s.inFlight (.slot n)))).toRetiring n (some .link)).linkDownDrain n

/-- A link down report, by state (R16). -/
def State.linkDown (s : State) (n : SlotId) : State :=
  if (s.slot n).linkCarries = false then s
  else match (s.slot n).state with
    | .probing => s.faultSlot n .link
    | .settling | .live | .holding | .held => if s.params.grace = 0 then s.loseLinkForGood n else s.enterGrace n
    | .retiring => s.linkDownDrain n
    | .empty | .seating | .powering | .identifying | .pending | .grace | .retired | .faulted | .vacating => s

/-- LINK_DOWN (R16). -/
def execLinkDown (n : SlotId) (s : State) : StepResult := .next (s.linkDown n)

/-! ## Link up (R45, R160) -/

/-- The DATA frame of a held answer: a completion, or TIMEOUT (R160). -/
def heldFrame (tag : BladeTag) (a : HeldAnswer) : DataFrame :=
  match a with
  | .completion true data => ⟨tag, .ok, data⟩
  | .completion false _ => ⟨tag, .memoryError, []⟩
  | .timeout | .none => ⟨tag, .timeout, []⟩

/-- One held answer handed to the link: a WAITING entry is freed, a LATE one gives up its answer (R123). -/
def State.deliverOne (s : State) (n : SlotId) (t : MemTag) : State :=
  let e := s.entry t
  match e.tag with
  | .blade tag =>
    let s1 := s.modSlot n fun sl => sl.sendData (heldFrame tag e.held)
    if e.state = .waiting then s1.freeEntry t else s1.setEntry t { e with held := .none }
  | .none | .control _ | .trailing _ | .ring _ | .scrub _ => s

/-- The order *deliver held* (R123). -/
def State.deliverHeld (s : State) (n : SlotId) : State :=
  ((s.slot n).holdList.foldl (fun s t => s.deliverOne n t) s).modSlot n fun sl => { sl with holdList := [] }

/-- How many held answers are TIMEOUT (R160). -/
def State.heldTimeouts (s : State) (n : SlotId) : Nat :=
  (s.slot n).holdList.countP fun t => (s.entry t).held == .timeout

/-- The timer that a return to a state starts: the ramp step or the hold limit in full, or none (R160). -/
def resumeTimer (st : SlotState) (now : Nat) (p : Params) : SlotTimer :=
  match st with
  | .settling => .running now (p.rampStep * 10)
  | .holding => .running now (p.holdLimit * 1000)
  | .empty | .seating | .powering | .identifying | .pending | .probing | .live | .held | .grace | .retiring | .retired
  | .faulted | .vacating => .stopped

/-- The return from GRACE to the resume state (R160). -/
def State.recover (s : State) (n : SlotId) (back : SlotState) : State :=
  let sl := s.slot n
  let s1 := (s.deliverHeld n).modSlot n fun sl => Slot.regrant
    { sl with state := back, resume := none, linkUp := true, timer := resumeTimer back s.now s.params }
  let s2 := s1.postEvent (.linkRecovered n sl.incarnation back sl.holdList.length (s.heldTimeouts n))
  if back = .holding then s2.settleHolding n else s2

/-- A link up report (R45, R160). -/
def State.linkUp (s : State) (n : SlotId) : State :=
  let sl := s.slot n
  if sl.linkEn = false ∨ sl.linkUp = true then s
  else match sl.state, sl.resume with
    | .probing, _ => s.modSlot n fun sl => { sl with linkUp := true, placesOpen := 1 }
    | .grace, some back => s.recover n back
    | .grace, none => s
    | .empty, _ | .seating, _ | .powering, _ | .identifying, _ | .pending, _ | .settling, _ | .live, _ | .holding, _
    | .held, _ | .retiring, _ | .retired, _ | .faulted, _ | .vacating, _ => s

/-- LINK_UP (R160). -/
def execLinkUp (n : SlotId) (s : State) : StepResult := .next (s.linkUp n)

/-! ## Frames -/

/-- A frame is taken from a link that carries frames. -/
def State.fromLink (s : State) (n : SlotId) (i : LinkItem) : State :=
  if (s.slot n).linkCarries = true then s.takeItem n i else s

/-- READ_FRAME (R70). -/
def execReadFrame (n : SlotId) (f : ReadFrame) (s : State) : StepResult := .next (s.fromLink n (.read f))

/-- WRITE_FRAME (R66). -/
def execWriteFrame (n : SlotId) (f : WriteFrame) (s : State) : StepResult := .next (s.fromLink n (.write f))

/-- FRAME_START (R63). -/
def execFrameStart (n : SlotId) (h : FrameHeader) (s : State) : StepResult := .next (s.fromLink n (.start h))

/-! ## Probe outcomes (R13, R55) -/

/-- Entry to SETTLING: credit 1 and translated intake with 8 places, then LIVE at once or the ramp step (R55). -/
def State.settle (s : State) (n : SlotId) : State :=
  let sl := s.slot n
  let s1 := s.modSlot n fun sl => Slot.regrant
    { sl with
      state := .settling
      effCredit := 1
      intake := .translated
      outcome := none
      timer := .running s.now (s.params.rampStep * 10) }
  if sl.cfgCredit = 1 ∨ s.params.rampStep = 0 then s1.goLive n sl.cfgCredit else s1

/-- The outcome *key accepted* taken by the Admission Controller (R13, R54, R55). -/
def State.keyAccepted (s : State) (n : SlotId) : State :=
  if (s.slot n).state = .probing ∧ (s.slot n).outcome = some .keyAccepted then s.settle n else s

/-- KEY_ACCEPTED (R55). -/
def execKeyAccepted (n : SlotId) (s : State) : StepResult := .next (s.keyAccepted n)

/-- The fault cause of a probe outcome other than key accepted (R13). -/
def ProbeOutcome.cause : ProbeOutcome → Option FaultCause
  | .keyAccepted => none
  | .laneMismatch => some .lane
  | .wrongKey => some .key
  | .glitchLimit => some .glitch

/-- The fault that a slot's untaken probe outcome brings in PROBING. -/
def Slot.probeFault (sl : Slot) : Option FaultCause :=
  if sl.state = .probing then sl.outcome.bind ProbeOutcome.cause else none

/-- A fault outcome of the probe taken by the Admission Controller (R13, R54). -/
def State.probeFault (s : State) (n : SlotId) : State :=
  match (s.slot n).probeFault with
  | some c => s.faultSlot n c
  | none => s

/-- PROBE_FAULT (R13). -/
def execProbeFault (n : SlotId) (s : State) : StepResult := .next (s.probeFault n)

end Sys2Proof.Machine
end

