-- ==== Sys2Proof/Machine/Port.lean ====
section
/-! DEFINITION. The memory port and the control port: GRANT, MEMORY_COMPLETION, COMPLETION_TIMEOUT,
CONTROL_REQUEST. -/

namespace Sys2Proof.Machine

/-- One decision of the arbiter, `elapsed` µs after the moment that the model holds (log 5). -/
def State.grant (s : State) (elapsed : Nat) : State := (s.elapse elapsed).decideGrant

/-- GRANT (R114). -/
def execGrant (elapsed : Nat) (s : State) : StepResult := .next (s.grant elapsed)

/-- MEMORY_COMPLETION (R116). -/
def execMemoryCompletion (tag : MemTag) (ok : Bool) (data : List Beat) (s : State) : StepResult :=
  .next (s.complete tag ok data)

/-- The deadline of an entry passes; it is watched in ISSUED alone (R121). -/
def State.completionTimeout (s : State) (t : MemTag) : State :=
  if (s.entry t).state = .issued then (s.reach (s.entry t).deadline).deadlinePassed t (s.entry t) else s

/-- COMPLETION_TIMEOUT (R121). -/
def execCompletionTimeout (tag : MemTag) (s : State) : StepResult := .next (s.completionTimeout tag)

/-- A request on the control link, taken in the order sent as places are free (R178). -/
def State.controlRequest (s : State) (r : ControlReq) : State :=
  { s with ctl := ({ s.ctl with heldBack := s.ctl.heldBack ++ [r] } : ControlPort).pull }

/-- CONTROL_REQUEST (R178). -/
def execControlRequest (r : ControlReq) (s : State) : StepResult := .next (s.controlRequest r)

end Sys2Proof.Machine
end

