-- ==== Sys2Proof/Machine/Management.lean ====
section
/-! DEFINITION. The management line: SIDEBAND_ACKNOWLEDGEMENT, SIDEBAND_TIMEOUT_EXPIRY, SIDEBAND_ACCESS_END. -/

namespace Sys2Proof.Machine

/-- The acknowledgement stops the timeout; a read goes on to READ_DATA and a write to STOP (R30, R31). -/
def Sideband.acknowledged (sb : Sideband) (now : Nat) : Sideband :=
  if sb.running.any Job.isWrite then { sb with phase := .stop, phaseEnds := now + 2 }
  else { sb with phase := .readData, phaseEnds := now + 32 }

/-- The acknowledgement of the running access, which counts in ACK_WAIT alone; an access whose timeout has expired by then
fails there (R31, log 9). -/
def State.acknowledge (s : State) : State :=
  match s.sb.phase with
  | .ackWait => if s.sb.overdue s.now = true then s.failAccess else { s with sb := s.sb.acknowledged s.now }
  | .idle | .lineCheck | .command | .writeData | .readData | .stop => s

/-- The running job is a slot's. -/
def Sideband.runsOn (sb : Sideband) (n : SlotId) : Bool := sb.running.any fun j => j.slot == n

/-- The powered blade of a slot pulls SBDAT low: on the running job's line it may be an acknowledgement (R31, log 10). -/
def State.hearAcknowledgement (s : State) (n : SlotId) : State :=
  if (s.slot n).pwrEn = false then s
  else
    let s1 := s.modSlot n fun sl => { sl with sbdatLow := true }
    if s.sb.runsOn n = true then s1.acknowledge else s1

/-- SIDEBAND_ACKNOWLEDGEMENT (R31). -/
def execSidebandAcknowledgement (n : SlotId) (s : State) : StepResult := .next (s.hearAcknowledgement n)

/-- The moment of the expiry has come: in LINE_CHECK and ACK_WAIT the access fails, in COMMAND and WRITE_DATA it goes on
with its timeout expired (R31). -/
def State.takeExpiry (s : State) : State :=
  match s.sb.phase with
  | .lineCheck | .ackWait => s.failAccess
  | .command | .writeData => { s with sb := { s.sb with expired := true } }
  | .idle | .readData | .stop => s

/-- The sideband timeout of the running access expires; it runs in LINE_CHECK to ACK_WAIT, and expires once (R31). -/
def State.expireAccess (s : State) : State :=
  match s.sb.phase with
  | .lineCheck | .command | .writeData | .ackWait =>
    if s.sb.expired = true then s else (s.reach s.sb.expiry).takeExpiry
  | .idle | .readData | .stop => s

/-- SIDEBAND_TIMEOUT_EXPIRY (R31). -/
def execSidebandTimeoutExpiry (s : State) : StepResult := .next s.expireAccess

/-- The moment at which the running access passes STOP (R30). -/
def Sideband.stopEnds (sb : Sideband) : Nat := if sb.phase = .readData then sb.phaseEnds + 2 else sb.phaseEnds

/-- The running access passes STOP, leaving SBDAT of its slot at the level given: it has succeeded, or failed with TIMEOUT
(R30, R31, R34, R37). -/
def State.endAccess (s : State) (data : Half) (lineHigh : Bool) : State :=
  match s.sb.phase, s.sb.running with
  | .readData, some j | .stop, some j =>
    let s1 := (s.modSlot j.slot fun sl => { sl with sbdatLow := !lineHigh }).reach s.sb.stopEnds
    if s.sb.failed = true then s1.endFailed else s1.succeedAccess data
  | .readData, none | .stop, none | .idle, _ | .lineCheck, _ | .command, _ | .writeData, _ | .ackWait, _ => s

/-- SIDEBAND_ACCESS_END (R30). -/
def execSidebandAccessEnd (data : Half) (lineHigh : Bool) (s : State) : StepResult :=
  .next (s.endAccess data lineHigh)

end Sys2Proof.Machine
end

