-- ==== Sys2Proof/Machine/Requests.lean ====
section
/-! DEFINITION. The twelve requests of the request ring, each acting on the request in execution (log 4): ADMIT, STAGE,
COMMIT, HOLD, RESUME, RETIRE, RESTART, PUBLISH, WITHDRAW, SIDEBAND, QUERY, DETACH. -/

namespace Sys2Proof.Machine

/-- The request in execution, when it is of the kind given (11.1). -/
def State.request (s : State) (kind : Nat) (f : Request → State) : State :=
  match s.ring.exec with
  | some r => if r.kind.toNat = kind then f r else s
  | none => s

/-- The same for a kind that names a slot; a slot outside 1 to 14 is answered BAD_SLOT (R184). -/
def State.slotRequest (s : State) (kind : Nat) (f : Request → SlotId → State) : State :=
  s.request kind fun r => match r.slotId with
    | some n => f r n
    | none => s.finish (r.answer .badSlot .nothing)

/-- The request in execution answered with a status alone. -/
def State.refuse (s : State) (r : Request) (st : Status) : State := s.finish (r.answer st .nothing)

/-- The request in execution answered BAD_FIELD (11.4). -/
def State.badField (s : State) (r : Request) (field : Nat) : State := s.finish (r.answer .badField (.field field))

/-- The request in execution answered ACCEPTED with the slot's incarnation (11.4). -/
def State.accept (s : State) (r : Request) (n : SlotId) : State :=
  s.finish (r.answer .accepted (.incarnation (s.slot n).incarnation))

/-! ## ADMIT (R13, R42, R44) -/

/-- The field that an ADMIT in PENDING fails on (R42). -/
def admitField (sl : Slot) (r : Request) : Option Nat :=
  if r.p4.toNat < 1 ∨ 16 < r.p4.toNat then some 1
  else if r.p5.toNat < 1 ∨ 32 < r.p5.toNat then some 2
  else if sl.identity[2].toNat < r.p4.toNat then some 3
  else none

/-- The slot after an accepted ADMIT (R13, R44). -/
def Slot.admitted (sl : Slot) (credit beats now limit : Nat) : Slot :=
  { sl with
    state := .probing
    cfgCredit := credit
    maxBeats := beats
    incarnation := sl.incarnation + 1
    laneMask := 0
    glitches := 0
    progress := 0
    intake := .probe
    linkUp := false
    placesOpen := 0
    ingress := []
    tags := Vector.replicate 16 false
    partly := none
    broken := false
    outcome := none
    heldBack := []
    dataOut := []
    linkEn := true
    timer := .running now (limit * 1000) }

/-- ADMIT for a slot. -/
def State.admitSlot (s : State) (r : Request) (n : SlotId) : State :=
  if (s.slot n).state ≠ .pending then s.refuse r .badState
  else match admitField (s.slot n) r with
    | some k => s.badField r k
    | none =>
      (s.modSlot n fun sl => sl.admitted r.p4.toNat r.p5.toNat s.now s.params.probeLimit).accept r n

/-- ADMIT (R42). -/
def execAdmit (s : State) : StepResult := .next (s.slotRequest 1 s.admitSlot)

/-! ## STAGE (R90) -/

/-- The field that a STAGE fails on (R90); a clear reads no page and no access (R192). -/
def stageField (r : Request) : Option Nat :=
  if 31 < r.p4.toNat then some 1
  else if r.p5.toNat = 2 then none
  else if r.p5.toNat ≠ 1 then some 2
  else if 31 < r.p6.toNat then some 3
  else if r.p7.toNat ≠ 1 ∧ r.p7.toNat ≠ 2 then some 4
  else none

/-- The staging entry that a STAGE writes: page, extent and access for a set, empty for a clear. -/
def stageEntry (r : Request) : Option MapEntry :=
  if r.p5.toNat = 1 then some ⟨Fin.ofNat 32 r.p6.toNat, r.extentAt8.toNat, decide (r.p7.toNat = 2)⟩ else none

/-- The staging set after a STAGE that passes. -/
def Slot.staged (sl : Slot) (r : Request) : Slot :=
  { sl with staging := sl.staging.setIfInBounds r.p4.toNat (stageEntry r) }

/-- STAGE for a slot. -/
def State.stageSlot (s : State) (r : Request) (n : SlotId) : State :=
  if (s.slot n).state = .vacating then s.refuse r .badState
  else match stageField r with
    | some k => s.badField r k
    | none =>
      let s1 := s.modSlot n fun sl => sl.staged r
      s1.finish (r.answer .ok (.staged (mapEntries (s1.slot n).staging).length))

/-- STAGE (R90). -/
def execStage (s : State) : StepResult := .next (s.slotRequest 2 s.stageSlot)

/-! ## COMMIT (R92 to R95) -/

/-- Whether an extent is acceptable to check d for a slot and an access (R94). -/
def Extent.acceptable (e : Extent) (n : SlotId) (rw : Bool) : Bool :=
  match e.state with
  | .free => true
  | .owned => decide (e.owner = some n)
  | .shared => !e.withdrawn && !rw
  | .dirty | .scrubbing | .bad => false

/-- The check that a staging entry fails, given the entries of lower index (R93): its number, and the extent state found
for check d. -/
def State.commitFault (s : State) (n : SlotId) (before : List MapEntry) (e : MapEntry) :
    Option (Nat × Option ExtentState) :=
  if s.ext.count ≤ e.extent then some (1, none)
  else if before.any (fun b => b.page == e.page) then some (2, none)
  else if before.any (fun b => b.extent == e.extent) then some (3, none)
  else if (s.extent e.extent).acceptable n e.rw = false then some (4, some (s.extent e.extent).state)
  else none

/-- The first staging entry to fail: its index and its check (R93). -/
def State.commitFirst (s : State) (n : SlotId) (before : List MapEntry) :
    List (Nat × MapEntry) → Option (Nat × Nat × Option ExtentState)
  | [] => none
  | p :: ps =>
    match s.commitFault n before p.2 with
    | some c => some (p.1, c.1, c.2)
    | none => s.commitFirst n (p.2 :: before) ps

/-- The claim of one staging entry's extent (R95, step 1). -/
def State.claimExtent (s : State) (n : SlotId) (old : List MapEntry) (x : Nat) : State :=
  match (s.extent x).state with
  | .free => s.setExtent x ⟨.owned, some n, 0, false⟩
  | .shared =>
    if old.any (fun o => o.extent == x) then s else s.setExtent x { s.extent x with refs := (s.extent x).refs + 1 }
  | .owned | .dirty | .scrubbing | .bad => s

/-- The extents of the old map that the staging set does not name, in ascending index order (R95, step 2). -/
def releasedExtents (old new : List MapEntry) : List Nat :=
  (old.filter fun o => !(new.any fun e => e.extent == o.extent)).map MapEntry.extent

/-- The effects of a COMMIT that passes validation (R95). -/
def State.install (s : State) (r : Request) (n : SlotId) : State :=
  let old := mapEntries (s.slot n).map
  let new := mapEntries (s.slot n).staging
  let s1 := (new.map MapEntry.extent).foldl (fun s x => s.claimExtent n old x) s
  let s2 := s1.releaseExtents n (releasedExtents old new)
  let s3 := s2.modSlot n fun sl => { sl with map := sl.staging, staging := Vector.replicate 32 none }
  s3.finish (r.answer .ok (.committed new.length (releasedExtents old new).length))

/-- The status of a COMMIT that fails a check (R93). -/
def commitStatus (check : Nat) : Status := if check = 4 then .extentState else .badField

/-- COMMIT for a slot. -/
def State.commitSlot (s : State) (r : Request) (n : SlotId) : State :=
  if (s.slot n).state ≠ .pending ∧ (s.slot n).state ≠ .held then s.refuse r .badState
  else match s.commitFirst n [] (indexedEntries (s.slot n).staging) with
    | some f => s.finish (r.answer (commitStatus f.2.1) (.commitFailed f.1 f.2.1 f.2.2))
    | none => s.install r n

/-- COMMIT (R95). -/
def execCommit (s : State) : StepResult := .next (s.slotRequest 3 s.commitSlot)

/-! ## HOLD, RESUME, RETIRE, RESTART -/

/-- HOLD for a slot: the response ACCEPTED stands before the HELD of a slot that is drained (R135). -/
def State.holdSlot (s : State) (r : Request) (n : SlotId) : State :=
  if (s.slot n).state ≠ .live then s.refuse r .badState
  else
    let s1 := (s.accept r n).modSlot n fun sl =>
      { sl with state := .holding, intake := .closed, timer := .running s.now (s.params.holdLimit * 1000) }
    s1.settleHolding n

/-- HOLD (R135). -/
def execHold (s : State) : StepResult := .next (s.slotRequest 4 s.holdSlot)

/-- RESUME for a slot, its response after the frames held back (R138). -/
def State.resumeSlot (s : State) (r : Request) (n : SlotId) : State :=
  if (s.slot n).state ≠ .held then s.refuse r .badState
  else ((s.modSlot n fun sl => { sl with state := .live }).reopen n .translated).finish (r.answer .ok .nothing)

/-- RESUME (R138). -/
def execResume (s : State) : StepResult := .next (s.slotRequest 5 s.resumeSlot)

/-- RETIRE for a slot: the response ACCEPTED stands before the event of the outcome (R20, R139). DESIGN CHOICE (log 38): it
stands before the NO_BLADE answers of the sideband jobs cancelled in the same step too, of which the manual gives no order
to it; before traffic these stand before the event RETIRED (`State.retireSlot`). -/
def State.retireRequest (s : State) (r : Request) (n : SlotId) : State :=
  if (s.slot n).state.retirable = false then s.refuse r .badState else (s.accept r n).retireSlot n

/-- RETIRE (R139). -/
def execRetire (s : State) : StepResult := .next (s.slotRequest 6 s.retireRequest)

/-- RESTART for a slot (R22, R146). -/
def State.restartSlot (s : State) (r : Request) (n : SlotId) : State :=
  if (s.slot n).state ≠ .retired ∧ (s.slot n).state ≠ .faulted then s.refuse r .badState
  else ((s.accept r n).modSlot n fun sl => { sl with fault := none, identityOk := false, forced := false }).powerUp n

/-- RESTART (R146). -/
def execRestart (s : State) : StepResult := .next (s.slotRequest 7 s.restartSlot)

/-! ## PUBLISH and WITHDRAW (R97, R98) -/

/-- PUBLISH of the extent that the request names. -/
def State.publishExtent (s : State) (r : Request) : State :=
  let x := r.extentAt4
  let e := s.extent x.toNat
  if s.ext.count ≤ x.toNat then s.finish (r.answer .badField (.extent x 1 none 0))
  else if e.state = .free then
    (s.setExtent x.toNat ⟨.shared, none, 0, false⟩).finish (r.answer .ok (.extent x 0 none 0))
  else s.finish (r.answer .extentState (.extent x 0 (some e.state) 0))

/-- PUBLISH (R97). -/
def execPublish (s : State) : StepResult := .next (s.request 8 s.publishExtent)

/-- WITHDRAW of the extent that the request names. -/
def State.withdrawExtent (s : State) (r : Request) : State :=
  let x := r.extentAt4
  let e := s.extent x.toNat
  if s.ext.count ≤ x.toNat then s.finish (r.answer .badField (.extent x 1 none 0))
  else if e.state = .shared ∧ e.withdrawn = false then
    if e.refs = 0 then (s.makeDirty x.toNat).finish (r.answer .ok (.extent x 0 (some .dirty) 0))
    else (s.setExtent x.toNat { e with withdrawn := true }).finish (r.answer .ok (.extent x 0 (some .shared) e.refs))
  else s.finish (r.answer .extentState (.extent x 0 (some e.state) 0))

/-- WITHDRAW (R98). -/
def execWithdraw (s : State) : StepResult := .next (s.request 9 s.withdrawExtent)

/-! ## SIDEBAND (R36) -/

/-- The field that a SIDEBAND request fails on (R36; 11.3). -/
def sidebandField (r : Request) : Option Nat :=
  if r.p4.toNat ≠ 1 ∧ r.p4.toNat ≠ 2 then some 1
  else if 31 < r.p5.toNat then some 2
  else if r.p4.toNat = 2 ∧ r.p5.toNat ≤ 7 then some 2
  else none

/-- The job of an accepted SIDEBAND request (R28, R36). -/
def sidebandJob (r : Request) (n : SlotId) : Job :=
  .request n (decide (r.p4.toNat = 2)) r.p5 (if r.p4.toNat = 2 then r.dataAt6 else 0) r.seq

/-- SIDEBAND for a slot: an accepted request is answered when its job ends (R36, R184). -/
def State.sidebandSlot (s : State) (r : Request) (n : SlotId) : State :=
  if (s.slot n).takesSideband = false then s.finish (r.answer .noBlade (.sideband r.p5 0))
  else match sidebandField r with
    | some k => s.badField r k
    | none =>
      if 16 ≤ s.sb.queue.length ∨ s.sb.waiting ≠ [] then s.refuse r .busy
      else
        ({ s with
          sb := { s.sb with queue := s.sb.queue ++ [sidebandJob r n] }
          ring := { s.ring with exec := none } } : State).startJob

/-- SIDEBAND (R36). -/
def execSideband (s : State) : StepResult := .next (s.slotRequest 10 s.sidebandSlot)

/-! ## QUERY (R190) -/

/-- QUERY for a slot: the counters are read, and then cleared if the flag asks for it. -/
def State.querySlot (s : State) (r : Request) (n : SlotId) : State :=
  let sl := s.slot n
  let s1 := if r.p4.getLsbD 0 then s.modSlot n fun sl => { sl with counters := Counters.zero } else s
  s1.finish (r.answer .ok (.query sl.incarnation sl.state sl.counters))

/-- QUERY (R190). -/
def execQuery (s : State) : StepResult := .next (s.slotRequest 11 s.querySlot)

/-! ## DETACH (R191) -/

/-- A slot at an accepted DETACH: its reset values, but for the debounced levels of its inputs (R27). -/
def Slot.atDetach (sl : Slot) : Slot :=
  { Slot.reset with present := sl.present, eject := sl.eject, pwrGood := sl.pwrGood }

/-- An ISSUED or LATE entry of RING or SCRUB becomes ORPHAN (R127). -/
def Entry.atDetach (e : Entry) : Entry :=
  if (e.who = .ring ∨ e.who = .scrub) ∧ e.state.outstanding = true then { e with state := .orphan, held := .none }
  else e

/-- The response write that an entry holds in flight (R186). -/
def Entry.responseIndex (e : Entry) : Option Nat :=
  if e.who = .ring ∧ e.state = .issued then
    match e.tag with
    | .ring (.response idx _) => some idx
    | .ring (.fetch _) | .ring .taken | .ring (.status _) | .ring .attachResult => none
    | .none | .blade _ | .control _ | .trailing _ | .scrub _ => none
  else none

/-- Whether a request stays in the ring request queue at a DETACH (R191, step 3). -/
def RingOp.staysAtDetach : RingOp → Bool
  | .taken _ | .response _ _ | .attachResult _ _ | .status .header => true
  | .fetch _ | .status (.slot _) | .status (.extentMap _) => false

/-- The Ring Interface's queue after step 3 of R191. -/
def Ring.dropFetches (r : Ring) : Ring :=
  Ring.refill
    { r with queue := r.queue.filter RingOp.staysAtDetach, waiting := r.waiting.filter RingOp.staysAtDetach }

/-- The ring state becomes DRAINING: the held record dropped, and the header alone stale (R191, step 5). -/
def Ring.toDraining (r : Ring) : Ring :=
  { r with
    held := none
    state := .draining
    stale := if r.queue.any (RingOp.writes .header) then [] else [.header] }

/-- The effects of an accepted DETACH before its response (R191, steps 1 to 5). -/
def State.shutDownPart (s : State) : State :=
  let s1 := (s.sb.running.toList ++ s.sb.queue).foldl State.cancelJob s
  { s1 with
    sb := { Sideband.reset with timeout := s.sb.timeout }
    slots := Vector.ofFn fun n => (s.slot n).atDetach
    trk := { s.trk with entries := Vector.ofFn fun t => (s.entry t).atDetach }
    scrub := ScrubEngine.reset
    ext := { s.ext with records := Vector.replicate 2048 Extent.free, queue := [], count := 0 }
    ring := ((s.trk.entries.toList.filterMap Entry.responseIndex).foldl
      (fun r i => r.responseDone i false) s1.ring).dropFetches.toDraining }

/-- DETACH judged by the Ring Interface. -/
def State.detachPart (s : State) (r : Request) : State :=
  if s.slots.toList.all (fun sl => sl.state.detachable) = true then
    s.shutDownPart.finish (r.answer .ok .nothing)
  else s.refuse r .badState

/-- DETACH (R191). -/
def execDetach (s : State) : StepResult := .next (s.request 12 s.detachPart)

end Sys2Proof.Machine
end

