-- ==== Sys2Proof/Machine/RingSteps.lean ====
section
/-! DEFINITION. The Ring Interface's own steps: REQUEST_TAKE, RESPONSE_WRITE, STATUS_UNIT_WRITE. -/

namespace Sys2Proof.Machine

/-- The take of the held record as one step (R184, steps 1 to 4). -/
def Ring.take (r : Ring) (q : Request) : Ring :=
  let next := (r.consumer + 1) % r.reqSize
  { ((r.enqueue (.taken r.consumer)).enqueue (.fetch next)) with
    reserved := r.reserved + 1
    consumer := next
    held := none
    exec := some q }

/-- The checks that the Ring Interface makes itself: the kind, then the slot of a kind that names one (R184). -/
def State.judge (s : State) (q : Request) : State :=
  if q.kindOk = false then s.refuse q .badRequest
  else if q.namesSlot = true ∧ q.slotId = none then s.refuse q .badSlot
  else s

/-- The held record taken when its three conditions hold (R184). -/
def State.takeHeld (s : State) : State :=
  match s.ring.held with
  | none => s
  | some q =>
    if s.ring.takeDue = true ∧ 2 ≤ s.ring.freePlaces then ({ s with ring := s.ring.take q } : State).judge q else s

/-- REQUEST_TAKE (R184). -/
def execRequestTake (s : State) : StepResult := .next s.takeHeld

/-- Whether a place of the ring request queue goes to a status unit or to a response: the part is attached or draining,
and the take, which goes first, does not wait for places (R188, R189, R191). -/
def Ring.placeForWrites (r : Ring) : Bool :=
  decide (r.state ≠ .detached ∧ 1 ≤ r.freePlaces) && !r.takeDue

/-- The response write of the head of the pending response queue (R186). -/
def Ring.writeResponse (r : Ring) (h : RingRecord) (rest : List RingRecord) : Ring :=
  { ((r.enqueue (.response r.producer h)).setMirror r.producer .writing) with
    producer := (r.producer + 1) % r.respSize
    pend := rest }

/-- The head written when its entry is mirrored EMPTY, a place is free and no status unit is stale (R186). -/
def Ring.responseWrite (r : Ring) : Ring :=
  match r.pend with
  | [] => r
  | h :: rest =>
    if r.placeForWrites = true ∧ r.stale = [] ∧ r.mirrorAt r.producer = .empty then r.writeResponse h rest else r

/-- RESPONSE_WRITE (R186). -/
def execResponseWrite (s : State) : StepResult := .next { s with ring := s.ring.responseWrite }

/-- The write of the first stale unit is queued, and the unit leaves the stale set (R189). -/
def Ring.statusWrite (r : Ring) : Ring :=
  match r.stale with
  | [] => r
  | u :: us => if r.placeForWrites = true then { r.enqueue (.status u) with stale := us } else r

/-- STATUS_UNIT_WRITE (R189). -/
def execStatusUnitWrite (s : State) : StepResult := .next { s with ring := s.ring.statusWrite }

end Sys2Proof.Machine
end

