-- ==== Sys2Proof/Machine/ScrubSteps.lean ====
section
/-! DEFINITION. The Scrub Engine's own steps: SCRUB_TAKE and SCRUB_PASS_END. -/

namespace Sys2Proof.Machine

/-- SCRUB_TAKE: one take of the head of the scrub queue (R170, log 13). -/
def execScrubTake (s : State) : StepResult := .next s.scrubTake

/-- The end of the pass, when all 256 acknowledgements are taken and SCRUB has no entry in ISSUED or LATE (R174). -/
def State.passEnd (s : State) : State :=
  match s.scrub.current with
  | none => s
  | some x => if s.scrub.acks = 256 ∧ s.scrubOutstanding = false then s.endPass x else s

/-- SCRUB_PASS_END (R174). -/
def execScrubPassEnd (s : State) : StepResult := .next s.passEnd

end Sys2Proof.Machine
end

