-- ==== Sys2Proof/Machine/Dispatch.lean ====
section
/-! DEFINITION. The meaning of each command, one arm per constructor. -/

namespace Sys2Proof.Machine

/-- The effect of a command on everything but the queue. -/
def exec (i : Instr) (s : State) : Host.Outcome State Fault Refusal :=
  match i with
  | .reset => Sys2Proof.Machine.execReset s
  | .presenceRise n => Sys2Proof.Machine.execPresenceRise n s
  | .presenceDrop n => Sys2Proof.Machine.execPresenceDrop n s
  | .ejectorOpened n => Sys2Proof.Machine.execEjectorOpened n s
  | .ejectorClosed n => Sys2Proof.Machine.execEjectorClosed n s
  | .pwrGoodRise n => Sys2Proof.Machine.execPwrGoodRise n s
  | .pwrGoodDrop n => Sys2Proof.Machine.execPwrGoodDrop n s
  | .debounceExpiry n => Sys2Proof.Machine.execDebounceExpiry n s
  | .powerLimitExpiry n => Sys2Proof.Machine.execPowerLimitExpiry n s
  | .probeLimitExpiry n => Sys2Proof.Machine.execProbeLimitExpiry n s
  | .rampStepExpiry n => Sys2Proof.Machine.execRampStepExpiry n s
  | .holdLimitExpiry n => Sys2Proof.Machine.execHoldLimitExpiry n s
  | .graceExpiry n => Sys2Proof.Machine.execGraceExpiry n s
  | .drainLimitExpiry n => Sys2Proof.Machine.execDrainLimitExpiry n s
  | .vacatingDrainLimitExpiry n => Sys2Proof.Machine.execVacatingDrainLimitExpiry n s
  | .linkUp n => Sys2Proof.Machine.execLinkUp n s
  | .linkDown n => Sys2Proof.Machine.execLinkDown n s
  | .readFrame n f => Sys2Proof.Machine.execReadFrame n f s
  | .writeFrame n f => Sys2Proof.Machine.execWriteFrame n f s
  | .keyAccepted n => Sys2Proof.Machine.execKeyAccepted n s
  | .probeFault n => Sys2Proof.Machine.execProbeFault n s
  | .grant elapsed => Sys2Proof.Machine.execGrant elapsed s
  | .memoryCompletion tag ok data => Sys2Proof.Machine.execMemoryCompletion tag ok data s
  | .completionTimeout tag => Sys2Proof.Machine.execCompletionTimeout tag s
  | .sidebandAccessEnd data lineHigh => Sys2Proof.Machine.execSidebandAccessEnd data lineHigh s
  | .sidebandTimeoutExpiry => Sys2Proof.Machine.execSidebandTimeoutExpiry s
  | .requestTake => Sys2Proof.Machine.execRequestTake s
  | .admission => Sys2Proof.Machine.execAdmit s
  | .stage => Sys2Proof.Machine.execStage s
  | .commit => Sys2Proof.Machine.execCommit s
  | .hold => Sys2Proof.Machine.execHold s
  | .resume => Sys2Proof.Machine.execResume s
  | .retire => Sys2Proof.Machine.execRetire s
  | .restart => Sys2Proof.Machine.execRestart s
  | .publish => Sys2Proof.Machine.execPublish s
  | .withdraw => Sys2Proof.Machine.execWithdraw s
  | .sideband => Sys2Proof.Machine.execSideband s
  | .query => Sys2Proof.Machine.execQuery s
  | .detach => Sys2Proof.Machine.execDetach s
  | .responseWrite => Sys2Proof.Machine.execResponseWrite s
  | .statusUnitWrite => Sys2Proof.Machine.execStatusUnitWrite s
  | .controlRequest r => Sys2Proof.Machine.execControlRequest r s
  | .scrubTake => Sys2Proof.Machine.execScrubTake s
  | .scrubPassEnd => Sys2Proof.Machine.execScrubPassEnd s
  | .drainEnd n => Sys2Proof.Machine.execDrainEnd n s
  | .holdDrainComplete n => Sys2Proof.Machine.execHoldDrainComplete n s
  | .vacatingEnd n => Sys2Proof.Machine.execVacatingEnd n s
  | .frameStart n h => Sys2Proof.Machine.execFrameStart n h s
  | .sidebandAcknowledgement n => Sys2Proof.Machine.execSidebandAcknowledgement n s

end Sys2Proof.Machine
end

