-- ==== Sys2Proof/Machine/Pins.lean ====
section
/-! DEFINITION. The management lines as the part drives them: SBCLK_n and SBDAT_n of every slot at the present moment, and
what an access sends. -/

namespace Sys2Proof.Machine

/-- What the part does with SBCLK_n (R29, R30). -/
inductive ClockPin where
  | notDriven
  | high
  | low
  /-- Driven, one bit every 2 µs. -/
  | clocked
  deriving DecidableEq, Repr

/-- What the part does with SBDAT_n (R29, R30). -/
inductive DataPin where
  | notDriven
  /-- Released: high by the blade's pull-up, or pulled low by the blade. -/
  | released (high : Bool)
  /-- The start mark: SBDAT falls while SBCLK is high. -/
  | startMark
  /-- A command or data bit. -/
  | bit (b : Bool)
  /-- The stop mark: SBDAT rises while SBCLK is high. -/
  | stopMark
  deriving DecidableEq, Repr

/-- The register that a job's access addresses: a request's own, and for an identity job the number of words read so far
(R30, R34). -/
def Job.register : Job → BitVec 5
  | .identity _ words => BitVec.ofNat 5 words.length
  | .request _ _ reg _ _ => reg.setWidth 5

/-- The command byte: the direction (1 for write), two 0 bits, the register index (R30). -/
def Job.command (j : Job) : Byte := BitVec.ofBool j.isWrite ++ (0 : BitVec 2) ++ j.register

/-- The data bits that follow the command of a write (R30). -/
def Job.sentData : Job → Half
  | .identity _ _ => 0
  | .request _ _ _ data _ => data

/-- What the part sends in COMMAND, 2 µs each: the start mark, then the command, most significant bit first (R30). -/
def Job.commandSent (j : Job) : List DataPin :=
  .startMark :: (List.range 8).map fun i => .bit (j.command.getMsbD i)

/-- What the part sends in WRITE_DATA, 2 µs each: the data, most significant bit first (R30). -/
def Job.dataSent (j : Job) : List DataPin := (List.range 16).map fun i => .bit (j.sentData.getMsbD i)

/-- How many bit times of a phase of `bits` bit times that ends at `ends` have passed by `now`; the last one stands until
the phase has ended (R30). -/
def bitTime (bits ends now : Nat) : Nat := min (bits - 1) ((now + 2 * bits - ends) / 2)

/-- The slot whose line carries an access: the one that the running job addresses (R29). -/
def Sideband.onLine (sb : Sideband) : Option SlotId := if sb.phase = .idle then none else sb.running.map Job.slot

/-- SBCLK of the line that carries the access, by phase: high for the marks, low in ACK_WAIT (R29, R30; high in
LINE_CHECK: log 9). -/
def Sideband.clockPin (sb : Sideband) (now : Nat) : ClockPin :=
  match sb.phase with
  | .idle | .lineCheck | .stop => .high
  | .command => if bitTime 9 sb.phaseEnds now = 0 then .high else .clocked
  | .writeData | .readData => .clocked
  | .ackWait => .low

/-- SBDAT of the line that carries the access, by phase (R30). -/
def Sideband.dataPin (sb : Sideband) (now : Nat) (high : Bool) : DataPin :=
  match sb.phase, sb.running with
  | .command, some j => j.commandSent.getD (bitTime 9 sb.phaseEnds now) (.released high)
  | .writeData, some j => j.dataSent.getD (bitTime 16 sb.phaseEnds now) (.released high)
  | .stop, _ => if now < sb.phaseEnds then .stopMark else .released high
  | .command, none | .writeData, none | .idle, _ | .lineCheck, _ | .ackWait, _ | .readData, _ => .released high

/-- SBCLK_n at the present moment, in the three conditions of R29. -/
def State.sbclk (s : State) (n : SlotId) : ClockPin :=
  if (s.slot n).pwrEn = false then .notDriven
  else if s.sb.onLine = some n then s.sb.clockPin s.now
  else .high

/-- SBDAT_n at the present moment, in the three conditions of R29. -/
def State.sbdat (s : State) (n : SlotId) : DataPin :=
  if (s.slot n).pwrEn = false then .notDriven
  else if s.sb.onLine = some n then s.sb.dataPin s.now (!(s.slot n).sbdatLow)
  else .released (!(s.slot n).sbdatLow)

end Sys2Proof.Machine
end

