-- ==== Sys2Proof/Safety.lean ====
section
/-! DEFINITION. What the statements speak of: the frames of a command, and the properties that every step keeps. -/

namespace Sys2Proof.Machine

/-! ## Frames -/

/-- Every slot but `n`, every other block, the parameters, the straps and the queue of commands are unchanged; slot `n`,
the Ring Interface and the moment `now` are not spoken of. -/
def keepsAllBut (n : SlotId) (s t : State) : Prop :=
  (∀ m, m ≠ n → t.slot m = s.slot m) ∧ t.sb = s.sb ∧ t.trk = s.trk ∧ t.ext = s.ext ∧ t.scrub = s.scrub ∧
    t.ctl = s.ctl ∧ t.params = s.params ∧ t.attachSel = s.attachSel ∧ t.drawn = s.drawn ∧ t.pending = s.pending

/-- The Ring Interface has at most been told that slot `n`'s entry of the status block is stale (R189). -/
def ringNoticed (n : SlotId) (r r' : Ring) : Prop := r' = r ∨ r' = r.markStale (.slot n)

/-- Slot `n` reads `sl` afterwards, and all else is unchanged but for the stale mark and the moment. -/
def slotBecomes (n : SlotId) (s t : State) (sl : Slot) : Prop :=
  t.slot n = sl ∧ keepsAllBut n s t ∧ ringNoticed n s.ring t.ring

/-- The same, with one event handed over after the change. -/
def slotBecomesPosting (n : SlotId) (s t : State) (sl : Slot) (e : Event) : Prop :=
  t.slot n = sl ∧ keepsAllBut n s t ∧ ∃ r, ringNoticed n s.ring r ∧ t.ring = r.postEvent e

/-- The moment, the queue of commands and everything but the slots, the Ring Interface and the engines are unchanged. -/
def keepsRest (s t : State) : Prop :=
  t.ctl = s.ctl ∧ t.params = s.params ∧ t.attachSel = s.attachSel ∧ t.drawn = s.drawn ∧ t.pending = s.pending

/-- What is left of a slot whose link is isolated, whose power is off and whose map is released: with the partly received
write counted in TORN where R67 counts it. -/
def Slot.shut (sl : Slot) : Slot :=
  { sl with
    linkEn := false, pwrEn := false, linkUp := false, sbdatLow := false, intake := .none, placesOpen := 0,
    partly := none, broken := false, tags := Vector.replicate 16 false, outcome := none, heldBack := [],
    dataOut := [], map := Vector.replicate 32 none,
    counters := if sl.partly.isSome && sl.state.countsTorn then sl.counters.addTorn else sl.counters }

/-- The jobs of a slot, the running one first (R38, R39). -/
def State.jobsOf (s : State) (n : SlotId) : List Job :=
  (s.sb.running.toList ++ s.sb.queue).filter fun j => j.slot == n

/-- The NO_BLADE answers of cancelled request jobs, in the order of the jobs (R38). -/
def noBladeAnswers (js : List Job) : List RingRecord :=
  js.filterMap fun j => match j with
    | .identity _ _ => none
    | .request n _ reg _ seq => some (.response (sidebandAnswer n seq .noBlade reg 0))

/-- The engine holds no job of a slot and no place in the waiting identity set (R38). -/
def Sideband.noJobs (sb : Sideband) (n : SlotId) : Prop :=
  (∀ j ∈ sb.running.toList ++ sb.queue, j.slot ≠ n) ∧ n ∉ sb.waiting

/-- The free places of the job queue are given to the slots that wait, lowest number first, each with an identity job at
the tail (R33). -/
def Sideband.filled (sb : Sideband) : Sideband :=
  { sb with
    queue := sb.queue ++ (sb.waiting.take (16 - sb.queue.length)).map fun m => .identity m []
    waiting := sb.waiting.drop (16 - sb.queue.length) }

/-- The running job has ended: no job runs, and the access phase is IDLE (R30, R32). -/
def Sideband.jobEnded (sb : Sideband) : Sideband :=
  { sb with running := none, phase := .idle, phaseEnds := 0, started := 0, expired := false, failed := false }

/-- The engine `sb` at the moment and with the lines of `s`: when no job runs and the queue has a head, the head becomes the
running job, the place it leaves is filled, and its access enters LINE_CHECK, which ends at once where SBDAT is high (R31 to
R33). -/
def State.takesHead (s : State) (sb : Sideband) : Sideband :=
  match sb.running, sb.queue with
  | none, j :: rest =>
    { ({ sb with queue := rest } : Sideband).filled with
      running := some j, started := s.now, expired := false, failed := false, phaseEnds := s.now + 18,
      phase := if (s.slot j.slot).sbdatLow = true then .lineCheck else .command }
  | none, [] | some _, _ => sb

/-- The engine after a job's end or a cancellation: free places are filled first, then the next head is taken (R32, R33). -/
def State.goesOn (s : State) (sb : Sideband) : Sideband := s.takesHead sb.filled

/-- The engine without the jobs of a slot and its place in the waiting identity set, the other slots' in their order; an
access of the slot is abandoned (R38, R39). -/
def Sideband.without (sb : Sideband) (n : SlotId) : Sideband :=
  let kept := { sb with
    queue := sb.queue.filter fun j => decide (j.slot ≠ n), waiting := sb.waiting.filter fun m => decide (m ≠ n) }
  if sb.running.map Job.slot = some n then kept.jobEnded else kept

/-- The engine after the order to cancel a slot's jobs (R32, R33, R38, R39). -/
def State.jobsCancelled (s : State) (n : SlotId) : Sideband := s.goesOn (s.sb.without n)

/-- The engine after an identity job is handed over: it joins the tail of a queue with a place, and its slot waits in the
identity set, which ascends, behind a full one; with no job running the head of the queue is taken (R32, R33). -/
def State.identityHanded (s : State) (n : SlotId) : Sideband :=
  if s.sb.queue.length < 16 then s.takesHead { s.sb with queue := s.sb.queue ++ [.identity n []] }
  else s.takesHead { s.sb with
    waiting := s.sb.waiting.filter (fun m => decide (m < n)) ++ n :: s.sb.waiting.filter (fun m => decide (n < m)) }

/-- The Ring Interface after a slot's jobs are answered NO_BLADE; units of the status block may have become stale. -/
def ringShut (n : SlotId) (s : State) (r : Ring) : Prop :=
  r = { s.ring with
    pend := s.ring.pend ++ noBladeAnswers (s.jobsOf n)
    reserved := s.ring.reserved - (noBladeAnswers (s.jobsOf n)).length
    stale := r.stale }

/-- How many entries of a map name an extent. -/
def namedIn (m : Vector (Option MapEntry) 32) (x : Nat) : Nat := (mapEntries m).countP fun e => e.extent == x

/-- An extent's record after the release of `k` entries of slot `n` that name it: OWNED by the slot it becomes DIRTY; SHARED
it loses `k` of its count, and becomes DIRTY when withdrawn and at 0 (R88, R145). -/
def Extent.afterRelease (e : Extent) (n : SlotId) (k : Nat) : Extent :=
  match e.state with
  | .owned => if 0 < k ∧ e.owner = some n then Extent.dirty else e
  | .shared =>
    if 0 < k ∧ e.withdrawn = true ∧ e.refs ≤ k then Extent.dirty else { e with refs := e.refs - k }
  | .free | .dirty | .scrubbing | .bad => e

/-- The Scrub Engine hears of the extents `js` that joined its queue and of each entry freed, at which its deferral count is
set to 0; nothing else of it changes (R132, R171). -/
def scrubHears (s t : State) (js : List Nat) : Prop :=
  t.scrub =
    if js ≠ [] ∨ ∃ k : MemTag, (s.entry k).state ≠ .free ∧ (t.entry k).state = .free then
      { s.scrub with deferral := 0 }
    else s.scrub

/-- Of the extents `xs`, those that have become DIRTY have joined the tail of the scrub queue, in the order of `xs`, and the
rest of the Extent Table but for the records is unchanged (R85, R89, R145). -/
def dirtiedJoin (xs : List Nat) (s t : State) : Prop :=
  ∃ js : List Nat, js.Nodup ∧ js.Sublist xs ∧
    (∀ x, x ∈ js ↔ (s.extent x).state ≠ .dirty ∧ (t.extent x).state = .dirty) ∧
    t.ext = { s.ext with records := t.ext.records, queue := s.ext.queue ++ js } ∧ scrubHears s t js

/-- Slot `n`'s committed map is released, its entries in ascending index order (R25, R88, R89, R145). -/
def mapReleased (n : SlotId) (s t : State) : Prop :=
  (∀ x, t.extent x = (s.extent x).afterRelease n (namedIn (s.slot n).map x)) ∧
    dirtiedJoin ((mapEntries (s.slot n).map).map MapEntry.extent) s t

/-- A slot `n` that has ended its activity: it reads `sl`, its jobs are cancelled, its map released, and `e` is posted
after that; the other slots, the tracker and all else are unchanged (R6, R20, R23, R38, R89, R144). That the NO_BLADE
answers of the cancelled jobs stand before `e` is R144's order at a drain end, and elsewhere the model's choice (logs 38
and 40). -/
def shutsDown (n : SlotId) (s t : State) (sl : Slot) (e : Event) : Prop :=
  t.slot n = sl ∧ (∀ m, m ≠ n → t.slot m = s.slot m) ∧ t.trk = s.trk ∧ mapReleased n s t ∧
    t.sb = s.jobsCancelled n ∧ t.sb.noJobs n ∧ (∃ r, ringShut n s r ∧ t.ring = r.postEvent e) ∧ keepsRest s t

/-- Slot `n` reads `sl`, IDENTIFYING, and its identity job has been handed over; the other slots, the tracker, the Extent
Table and the Scrub Engine are unchanged (R10, R32, R33). -/
def identifies (n : SlotId) (s t : State) (sl : Slot) : Prop :=
  t.slot n = sl ∧ (∀ m, m ≠ n → t.slot m = s.slot m) ∧ t.trk = s.trk ∧ t.ext = s.ext ∧ t.scrub = s.scrub ∧
    t.now = s.now ∧ keepsRest s t ∧ (s.sb.waiting.Pairwise (· < ·) → t.sb = s.identityHanded n)

/-- The record of a slot that has entered FAULTED with a cause (R6). -/
def Slot.faulted (sl : Slot) (c : FaultCause) : Slot :=
  { sl.shut with
    state := .faulted, fault := some c, pendingFault := none, effCredit := 0, timer := .stopped, removeOk := true }

/-- The record of a slot that has entered RETIRED (R20, R144). -/
def Slot.retired (sl : Slot) : Slot :=
  { sl.shut with state := .retired, pendingFault := none, effCredit := 0, timer := .stopped, removeOk := true }

/-- A tracker entry after the orders *orphan reads* and *free waiting* for slot `n` in incarnation `inc` (R125). -/
def Entry.givenUp (e : Entry) (n : SlotId) (inc : Half) : Entry :=
  if e.who = .slot n ∧ e.incarnation = inc then
    match e.state, e.kind with
    | .issued, .read | .late, .read => { e with state := .orphan, held := .none }
    | .waiting, _ => Entry.free
    | .issued, .write | .late, .write | .free, _ | .orphan, _ => e
  else e

/-- A tracker entry after the orders *orphan all* and *free waiting* (R125, R143). -/
def Entry.allGivenUp (e : Entry) (n : SlotId) (inc : Half) : Entry :=
  if e.who = .slot n ∧ e.incarnation = inc then
    match e.state with
    | .issued | .late => { e with state := .orphan, held := .none }
    | .waiting => Entry.free
    | .free | .orphan => e
  else e

/-- The tracker of `t` holds what that of `s` holds, but for the entries, which are rewritten by `f`. -/
def entriesBecome (s t : State) (f : Entry → Entry) : Prop :=
  (∀ k, t.entry k = f (s.entry k)) ∧ t.trk = { s.trk with entries := t.trk.entries }

/-- The writes of an ingress queue, in their order. -/
def queuedWritesOf (q : List IngressEntry) : List IngressEntry :=
  q.filter fun i => match i.body with
    | .read _ => false
    | .write _ => true

/-- The record of a slot whose link is isolated under a link-down drain or in VACATING: its reads given up, its writes
kept (R24, R75, R141). -/
def Slot.drainOfWrites (sl : Slot) : Slot :=
  { sl with
    linkEn := false, linkUp := false, intake := .none, placesOpen := 0, partly := none, broken := false,
    tags := Vector.replicate 16 false, outcome := none, heldBack := [], dataOut := [], holdList := [],
    ingress := queuedWritesOf sl.ingress,
    counters := if sl.partly.isSome && sl.state.countsTorn then sl.counters.addTorn else sl.counters }

/-- The places open in translated and fence intake: eight less the queue and the partly received frame (R63). -/
def Slot.freePlaces (sl : Slot) : Nat := 8 - sl.ingress.length - sl.partlyPlaces

/-! ### The link-down drain -/

/-- An entry counts for slot `n` (R108). -/
def Entry.countsFor (e : Entry) (n : SlotId) : Bool := e.state.inFlight && e.who == .slot n

/-- A write of slot `n` is queued or in flight, so that its drain goes on once its reads are given up (R24, R133, R141). -/
def State.writesLeft (s : State) (n : SlotId) : Prop :=
  queuedWritesOf (s.slot n).ingress ≠ [] ∨
    ∃ k, ((s.entry k).givenUp n (s.slot n).incarnation).countsFor n = true

/-- The record of a RETIRING slot after its drain end (R21, R144). -/
def Slot.drainEnded (sl : Slot) : Slot :=
  match sl.pendingFault with
  | none => sl.retired
  | some .powerLost => sl.faulted .powerLost
  | some .link => sl.faulted .link

/-- The event that a drain end posts (R144, R154). -/
def drainEvent (n : SlotId) (sl : Slot) (orphans : Nat) : Event :=
  match sl.pendingFault with
  | none => .retired n sl.incarnation sl.forced orphans
  | some .powerLost => .faulted n sl.incarnation sl.forced orphans .powerLost 0
  | some .link => .faulted n sl.incarnation sl.forced orphans .link 0

/-- Slot `n` drains under the link-down rules from the record `sl`: its reads are given up, and where no write of it is
left the drain ends in the same step, with its map released, its jobs cancelled and its event (R133, R141, R144). -/
def drainsLinkDown (n : SlotId) (s t : State) (sl : Slot) : Prop :=
  (∀ m, m ≠ n → t.slot m = s.slot m) ∧ entriesBecome s t (fun e => e.givenUp n (s.slot n).incarnation) ∧
    keepsRest s t ∧
    (s.writesLeft n → t.slot n = sl ∧ t.ext = s.ext ∧ scrubHears s t []) ∧
    (¬ s.writesLeft n → t.slot n = sl.drainEnded ∧ mapReleased n s t ∧ t.sb = s.jobsCancelled n ∧ t.sb.noJobs n ∧
      ∃ r, ringShut n s r ∧ t.ring = r.postEvent (drainEvent n sl (t.orphanCount n)))

/-! ### Frames held back on a link -/

/-- The command by which a frame that the link carries arrives. -/
def LinkItem.command (n : SlotId) : LinkItem → Instr
  | .start h => .frameStart n h
  | .read f => .readFrame n f
  | .write f => .writeFrame n f

/-- `t` is what the commands make of `s`, one after another. -/
def runs : List Instr → State → State → Prop
  | [], s, t => t = s
  | c :: cs, s, t => ∃ u, exec c s = .next u ∧ runs cs u t

/-- What the link of slot `n` held back arrives, frame after frame, as if sent now (R64, R65). -/
def heldBackArrives (n : SlotId) (items : List LinkItem) (s t : State) : Prop :=
  runs (items.map (LinkItem.command n)) s t

/-! ### Held answers -/

/-- The DATA frame of an answer held in an entry: its completion's, or TIMEOUT (R123, R160). -/
def answerFrame (tag : BladeTag) (a : HeldAnswer) : DataFrame :=
  match a with
  | .completion true data => ⟨tag, .ok, data⟩
  | .completion false _ => ⟨tag, .memoryError, []⟩
  | .timeout | .none => ⟨tag, .timeout, []⟩

/-- One entry of slot `n`'s hold list is handed to the link: its frame is sent and its tag leaves the tag-in-use set; a
WAITING entry is freed, and a LATE one gives up its answer (R123, R160). -/
def handsOver (n : SlotId) (k : MemTag) (s u : State) : Prop :=
  match (s.entry k).tag with
  | .blade b =>
    u = { s with
      slots := u.slots, trk := { s.trk with entries := u.trk.entries },
      scrub := if (s.entry k).state = .waiting then { s.scrub with deferral := 0 } else s.scrub } ∧
    u.slot n = { s.slot n with
      dataOut := (s.slot n).dataOut ++ [answerFrame b (s.entry k).held],
      tags := (s.slot n).tags.set b.val false b.isLt } ∧
    (∀ m, m ≠ n → u.slot m = s.slot m) ∧
    u.entry k = (if (s.entry k).state = .waiting then Entry.free else { s.entry k with held := .none }) ∧
    (∀ j, j ≠ k → u.entry j = s.entry j)
  | .none | .control _ | .trailing _ | .ring _ | .scrub _ => u = s

/-- The entries of a hold list are handed over in list order (R123). -/
def handsOverAll (n : SlotId) : List MemTag → State → State → Prop
  | [], s, u => u = s
  | k :: ks, s, u => ∃ v, handsOver n k s v ∧ handsOverAll n ks v u

/-! ### Frames at intake -/

/-- A header is well formed (R61). -/
def headerFormed (h : FrameHeader) : Prop := 1 ≤ h.beats ∧ h.beats ≤ 32 ∧ h.addr.toNat % 8 = 0

/-- A WRITE that ends is well formed under its header (R61). -/
def writeFormed (f : WriteFrame) (h : FrameHeader) : Prop :=
  f.parsed = true ∧ headerFormed h ∧ f.data.length = h.beats

/-- The WRITE that ends on a slot's link is taken under the header `h`: the one that came with its start, or its own where no
frame had begun and a place was open (R65, R66, log 14). -/
def Slot.endsFrame (sl : Slot) (f : WriteFrame) (h : FrameHeader) : Prop :=
  sl.broken = false ∧ (sl.partly = some h ∨ (sl.partly = none ∧ sl.placesOpen ≠ 0 ∧ h = f.head))

/-- A request lies in the window, is within the slot's maximum beats and does not cross its page (R70). -/
def Slot.withinPage (sl : Slot) (h : FrameHeader) : Prop :=
  h.addr.toNat < 0x200000 ∧ h.beats ≤ sl.maxBeats ∧ h.addr.toNat % 65536 + 8 * h.beats ≤ 65536

/-- The first of the five checks of R70 that a request fails has the cause `c`. -/
def Slot.refuses (sl : Slot) (kind : AccessKind) (h : FrameHeader) (c : ViolationCause) : Prop :=
  match c with
  | .outOfWindow => 0x200000 ≤ h.addr.toNat
  | .oversize => h.addr.toNat < 0x200000 ∧ sl.maxBeats < h.beats
  | .boundary =>
    h.addr.toNat < 0x200000 ∧ h.beats ≤ sl.maxBeats ∧ 65536 < h.addr.toNat % 65536 + 8 * h.beats
  | .unmapped => sl.withinPage h ∧ findPage sl.map (bladePage h.addr) = none
  | .readOnly =>
    kind = .write ∧ sl.withinPage h ∧ ∃ e, findPage sl.map (bladePage h.addr) = some e ∧ e.rw = false

/-- The Ring Interface after a refusal: VIOLATION posted when the counter stood at 0, its page none for OUT_OF_WINDOW
(R72). -/
def violationPosted (n : SlotId) (s : State) (kind : AccessKind) (h : FrameHeader) (c : ViolationCause) : Ring :=
  if (s.slot n).counters.violation = 0 then
    s.ring.postEvent (.violation n (s.slot n).incarnation kind
      (if c = .outOfWindow then none else some (bladePage h.addr)) c)
  else s.ring

/-! ### Grants, completions and deadlines -/

/-- The lowest-numbered FREE entry (R114). -/
def State.lowestFree (s : State) (k : MemTag) : Prop :=
  (s.entry k).state = .free ∧ ∀ j, j < k → (s.entry j).state ≠ .free

/-- A participant is eligible at a moment at which some entry is FREE: its queue has a head that it presents, and its entries
in ISSUED, LATE and WAITING number less than its cap, the effective credit, 16, 2 or 2; RING's head waits for the status
writes before it, and SCRUB for its pace (R108, R110, R111, R113, R172, R188). -/
def State.mayGo (s : State) (p : Participant) : Prop :=
  match p with
  | .slot n => (s.slot n).ingress ≠ [] ∧ s.inFlight p < (s.slot n).effCredit
  | .control => s.ctl.queue ≠ [] ∧ s.inFlight p < 16
  | .ring =>
    s.ring.queue ≠ [] ∧ s.inFlight p < 2 ∧
      ∀ k u, ¬ ((s.entry k).state = .issued ∧ (s.entry k).who = .ring ∧ (s.entry k).tag = .ring (.status u))
  | .scrub =>
    s.scrub.current ≠ none ∧ s.scrub.granted < 256 ∧ s.inFlight p < 2 ∧
      ∀ m, s.trk.lastScrub = some m → m + s.trk.pace ≤ s.now

/-- A participant's place in the circle: slots 1 to 14, CONTROL, RING, SCRUB (R110). -/
def Participant.place : Participant → Nat
  | .slot n => n.val
  | .control => 14
  | .ring => 15
  | .scrub => 16

/-- How many participants stand before `p` in the circle counted from the one after the pointer; 16 for the pointer itself
(R110). -/
def Participant.behind (p pointer : Participant) : Nat := (p.place + 16 - pointer.place) % 17

/-- The participant that a decision grants: the first eligible one in circle order after the pointer (R110). -/
def State.grantsNext (s : State) (p : Participant) : Prop :=
  s.mayGo p ∧ ∀ q, q.behind s.trk.pointer < p.behind s.trk.pointer → ¬ s.mayGo q

/-- The grant of the entry `k` with the fields of R114, and its request on the memory link; no other entry changes. -/
def grants (k : MemTag) (s t : State) (who : Participant) (inc : Half) (kind : AccessKind) (tag : RequesterTag)
    (addr : Addr) (beats : Nat) (data : List MaskedBeat) : Prop :=
  t.entry k = ⟨.issued, who, inc, kind, tag, addr, beats, t.now + s.trk.timeout, .none⟩ ∧
    t.trk.link = s.trk.link ++ [⟨k, kind, addr, beats, data⟩] ∧ (∀ j, j ≠ k → t.entry j = s.entry j) ∧
    t.trk.pointer = who ∧ t.trk.timeout = s.trk.timeout ∧ t.trk.pace = s.trk.pace

/-- A control WRITE covers the byte at address `a` with the value `v` (R179). -/
def coversWith (r : ControlReq) (a : Nat) (v : Byte) : Prop :=
  r.kind = .write ∧ ∃ i j, ∃ b : MaskedBeat, i < r.beats ∧ j < 8 ∧ a = r.addr.toNat + 8 * i + j ∧
    r.data[i]? = some b ∧ b.mask.getLsbD j = true ∧ b.data.extractLsb' (8 * j) 8 = v

/-- A slot's record is `sl`, and nothing else differs. -/
def State.withSlot (s : State) (n : SlotId) (sl : Slot) : State := { s with slots := s.slots.set n.val sl n.isLt }

/-- A completion has ended its request on the memory link (R105, log 16). -/
def State.heard (s : State) (k : MemTag) : State :=
  { s with trk := { s.trk with link := eraseRequest k s.trk.link } }

/-- A completion has ended its request and freed its entry, which is reported to the Scrub Engine (R105, R132, log 16). -/
def State.completed (s : State) (k : MemTag) : State := (s.heard k).freeEntry k

/-- The write of response entry `i` has ended: WRITING becomes FULL, and ATTN is asserted; after the response to DETACH,
DRAINING ends (R186, R187, R191). -/
def Ring.responseEnded (r : Ring) (i : Fin 256) (last : Bool) : Ring :=
  if last = true ∧ r.state = .draining then
    { r with
      mirror := Vector.replicate 256 .empty, attn := false, consumer := 0, producer := 0, state := .detached }
  else if r.mirror.get i = .writing then { r with mirror := r.mirror.set i.val .full i.isLt, attn := true }
  else r

/-- What MEMORY_WRITE_ERROR carries of an entry (R118, R124, R126). -/
def Entry.writeError (e : Entry) : Event := .memoryWriteError e.who e.incarnation e.addr e.beats e.state

/-! ### The attach -/

/-- The checks of an attach record in the order in which they are made, each with the field that it names (R181; the order
of the size, range and overlap tests: log 24). -/
def AttachRecord.checks (a : AttachRecord) (page : Nat) : List (Nat × Prop) :=
  let req := a.reqSize * 32
  let resp := a.respSize * 32
  let region := a.extentCount * 65536
  [(2, a.reqSize ∈ [8, 16, 32, 64, 128, 256]),
    (1, a.reqBase % req = 0 ∧ overlaps a.reqBase req page 4096 = false),
    (4, a.respSize ∈ [8, 16, 32, 64, 128, 256]),
    (3, a.respBase % resp = 0 ∧ overlaps a.respBase resp page 4096 = false ∧
      overlaps a.respBase resp a.reqBase req = false),
    (5, a.statusBase % 4096 = 0 ∧ overlaps a.statusBase 1024 page 4096 = false ∧
      overlaps a.statusBase 1024 a.reqBase req = false ∧ overlaps a.statusBase 1024 a.respBase resp = false),
    (6, a.managedBase % 65536 = 0),
    (7, 1 ≤ a.extentCount ∧ a.extentCount ≤ 2048),
    (6, overlaps a.managedBase region page 4096 = false ∧ overlaps a.managedBase region a.reqBase req = false ∧
      overlaps a.managedBase region a.respBase resp = false ∧
      overlaps a.managedBase region a.statusBase 1024 = false),
    (7, a.managedBase + region ≤ 2 ^ 40),
    (10, 1 ≤ a.debounce), (11, 1 ≤ a.powerLimit), (12, 1 ≤ a.sidebandTimeout), (13, 1 ≤ a.probeLimit),
    (14, 1 ≤ a.glitchLimit), (17, 1 ≤ a.holdLimit ∧ a.holdLimit ≤ 4095),
    (18, 1 ≤ a.drainLimit ∧ a.drainLimit ≤ 4095), (19, 1 ≤ a.completionTimeout)]

/-- The first of the checks to fail names the field `f`. -/
def firstFails (cs : List (Nat × Prop)) (f : Nat) : Prop :=
  ∃ pre P post, cs = pre ++ (f, P) :: post ∧ (∀ c ∈ pre, c.2) ∧ ¬ P

/-- An entry for which the tracker reports an attach BUSY (R128). -/
def Entry.busyFor (e : Entry) (a : AttachRecord) : Prop :=
  e.state ≠ .free ∧ (e.who ≠ .control ∨ (∃ f, e.tag = .trailing f) ∨
    (e.kind = .write ∧ overlaps e.addr.toNat (8 * e.beats) a.managedBase (a.extentCount * 65536) = true))

/-- The Ring Interface after an OK result: the geometry of fields 1 to 5, the indices 0, the mirror EMPTY, the result write and
the read-ahead of entry 0 queued, every unit stale, and ATTACHED pending (R182). -/
def Ring.attachedWith (r : Ring) (a : AttachRecord) : Ring :=
  { r with
    state := .attached, reqBase := BitVec.ofNat 40 a.reqBase, reqSize := a.reqSize,
    respBase := BitVec.ofNat 40 a.respBase, respSize := a.respSize, statusBase := BitVec.ofNat 40 a.statusBase,
    consumer := 0, producer := 0, mirror := Vector.replicate 256 .empty, attn := false, lost := 0,
    pend := [.event (.attached a.extentCount a.scrubAtAttach a.autoRetire)],
    queue := r.queue ++ [.attachResult .ok 0, .fetch 0], stale := allUnits }

/-- Slot `sl` at an attach: its ejector level taken, and SEATING where presence is up (R8, R182). -/
def Slot.seatedAtAttach (sl : Slot) (now : Nat) (a : AttachRecord) : Slot :=
  if sl.present = true then
    { sl with
      ejectorOpen := sl.eject, state := .seating, forced := false, timer := .running now (a.debounce * 1000) }
  else { sl with ejectorOpen := sl.eject }

/-- The part `u` after an OK result: the geometry, the managed region, the durations and limits at their owners, the slots
seated, and with scrub-at-attach every extent DIRTY and extent 0 taken unless an entry addresses it (R8, R82, R83, R101,
R169, R182). -/
def attachesWith (s u : State) (a : AttachRecord) : Prop :=
  u.ring = (s.ring.attachedWith a) ∧
    u.params = ⟨a.debounce, a.powerLimit, a.probeLimit, a.glitchLimit, a.rampStep, a.grace, a.holdLimit, a.drainLimit,
      a.autoRetire⟩ ∧
    u.sb = { s.sb with timeout := a.sidebandTimeout } ∧
    u.trk = { s.trk with timeout := a.completionTimeout, pace := a.scrubPace } ∧
    (∀ n, u.slot n = (s.slot n).seatedAtAttach s.now a) ∧
    u.ext.base = BitVec.ofNat 40 a.managedBase ∧ u.ext.count = a.extentCount ∧ u.ext.fill = a.fill ∧
    u.ext.discards = 0 ∧ u.now = s.now ∧ u.ctl = s.ctl ∧ u.attachSel = s.attachSel ∧ u.drawn = s.drawn ∧
    u.pending = s.pending ∧
    (a.scrubAtAttach = false →
      (∀ x, u.extent x = Extent.free) ∧ u.ext.queue = [] ∧ u.scrub = ScrubEngine.reset) ∧
    (a.scrubAtAttach = true →
      (∀ k, (s.entry k).addresses (BitVec.ofNat 40 a.managedBase).toNat = false) →
      u.extent 0 = ⟨.scrubbing, none, 0, false⟩ ∧ (∀ x, 1 ≤ x → x < a.extentCount → u.extent x = Extent.dirty) ∧
        (∀ x, a.extentCount ≤ x → u.extent x = Extent.free) ∧ u.ext.queue = List.range' 1 (a.extentCount - 1) ∧
        u.scrub = ⟨some 0, 0, 0, 0, 0, 0⟩)

/-! ### Record layouts (chapter 11) -/

/-- `k` bytes of a value, the least significant first (R193). -/
def leBytes : Nat → Nat → List Byte
  | 0, _ => []
  | k + 1, v => BitVec.ofNat 8 v :: leBytes k (v / 256)

/-- `k` bytes of 0. -/
def zeroBytes (k : Nat) : List Byte := List.replicate k 0

/-- The bytes that beats carry, byte 0 of a beat its least significant. -/
def beatBytes (bs : List MaskedBeat) : List Byte :=
  bs.flatMap fun b => (List.range 8).map fun i => b.data.extractLsb' (8 * i) 8

/-- Beats that write every one of the bytes given, in their order (R193). -/
def writesBytes (bs : List MaskedBeat) (bytes : List Byte) : Prop := beatBytes bs = bytes ∧ ∀ b ∈ bs, b.mask = 0xFF

/-- Bytes 6 to 30 of a response, by its result (11.4). -/
def Result.bytes : Result → List Byte
  | .nothing => zeroBytes 25
  | .incarnation inc => leBytes 2 inc.toNat ++ zeroBytes 23
  | .field number => zeroBytes 2 ++ leBytes 1 number ++ zeroBytes 22
  | .staged entries => zeroBytes 2 ++ leBytes 1 entries ++ zeroBytes 22
  | .committed entries released => zeroBytes 2 ++ leBytes 1 entries ++ leBytes 1 released ++ zeroBytes 21
  | .commitFailed index check found =>
    zeroBytes 2 ++ leBytes 1 index ++ leBytes 1 check ++ leBytes 1 ((found.map ExtentState.code).getD 0) ++ zeroBytes 20
  | .extent number fld state refs =>
    zeroBytes 2 ++ leBytes 1 fld ++ zeroBytes 1 ++ leBytes 1 ((state.map ExtentState.code).getD 0) ++ leBytes 1 refs ++
      leBytes 2 number.toNat ++ zeroBytes 17
  | .sideband reg data => zeroBytes 3 ++ [reg] ++ leBytes 2 data.toNat ++ zeroBytes 19
  | .query inc state c =>
    leBytes 2 inc.toNat ++ leBytes 1 state.code ++ zeroBytes 1 ++ leBytes 2 c.glitch.toNat ++ leBytes 2 c.bounce.toNat ++
      leBytes 2 c.violation.toNat ++ leBytes 2 c.protocol.toNat ++ leBytes 2 c.torn.toNat ++ leBytes 2 c.memerr.toNat ++
      leBytes 2 c.timeout.toNat ++ leBytes 2 c.late.toNat ++ leBytes 2 c.dropped.toNat ++ leBytes 2 c.fenced.toNat ++
      zeroBytes 1

/-- The 32 bytes of a response (11.4). -/
def Response.bytes (r : Response) : List Byte :=
  [1] ++ leBytes 1 r.status.code ++ [r.slot, r.kind] ++ leBytes 2 r.seq.toNat ++ r.result.bytes ++ [1]

/-- The 32 bytes of an event, by its kind, slot byte, incarnation and payload from offset 8 (11.4). -/
def eventBytes (kind slot inc : Nat) (payload : List Byte) : List Byte :=
  [2] ++ leBytes 1 kind ++ leBytes 1 slot ++ zeroBytes 3 ++ leBytes 2 inc ++ payload ++ zeroBytes (23 - payload.length) ++
    [1]

/-- The 32 bytes of each event (11.1, 11.4). -/
def Event.bytes : Event → List Byte
  | .attached count scrub auto => eventBytes 1 0 0 (leBytes 2 count ++ leBytes 1 (scrub.toNat + 2 * auto.toNat))
  | .present n inc w =>
    eventBytes 2 (n.val + 1) inc.toNat (leBytes 2 w[0].toNat ++ leBytes 2 w[1].toNat ++ leBytes 2 w[2].toNat ++
      leBytes 2 w[3].toNat ++ leBytes 2 w[4].toNat ++ leBytes 2 w[5].toNat ++ leBytes 2 w[6].toNat ++
      leBytes 2 w[7].toNat)
  | .live n inc credit => eventBytes 3 (n.val + 1) inc.toNat (leBytes 1 credit)
  | .held n inc => eventBytes 4 (n.val + 1) inc.toNat []
  | .holdFailed n inc queued inFlight late =>
    eventBytes 5 (n.val + 1) inc.toNat (leBytes 1 queued ++ leBytes 1 inFlight ++ leBytes 1 late)
  | .retired n inc forced orphans =>
    eventBytes 6 (n.val + 1) inc.toNat (leBytes 1 forced.toNat ++ leBytes 1 orphans)
  | .faulted n inc forced orphans cause mask =>
    eventBytes 7 (n.val + 1) inc.toNat
      (leBytes 1 forced.toNat ++ leBytes 1 orphans ++ leBytes 1 cause.code ++ zeroBytes 5 ++ leBytes 8 mask.toNat)
  | .removed n inc surprise left =>
    eventBytes 8 (n.val + 1) inc.toNat (leBytes 1 surprise.toNat ++ zeroBytes 1 ++ leBytes 1 left.code)
  | .vacated n inc forced orphans seated =>
    eventBytes 9 (n.val + 1) inc.toNat
      (leBytes 1 forced.toNat ++ leBytes 1 orphans ++ zeroBytes 1 ++ leBytes 1 seated.toNat)
  | .linkLost n inc left torn inFlight =>
    eventBytes 10 (n.val + 1) inc.toNat
      (zeroBytes 2 ++ leBytes 1 left.code ++ leBytes 1 torn.toNat ++ leBytes 1 inFlight)
  | .linkRecovered n inc back answers timeouts =>
    eventBytes 11 (n.val + 1) inc.toNat
      (zeroBytes 2 ++ leBytes 1 back.code ++ zeroBytes 1 ++ leBytes 1 answers ++ leBytes 1 timeouts)
  | .ejector n inc opened => eventBytes 12 (n.val + 1) inc.toNat (leBytes 1 opened.toNat)
  | .violation n inc kind page cause =>
    eventBytes 13 (n.val + 1) inc.toNat
      (leBytes 1 (kindCode kind) ++ leBytes 1 ((page.map Fin.val).getD 0xFF) ++ leBytes 1 cause.code)
  | .memoryWriteError who inc addr beats state =>
    let rest := leBytes 1 who.code ++ leBytes 1 beats ++ leBytes 1 state.code ++ zeroBytes 5 ++ leBytes 5 addr.toNat
    match who with
    | .slot n => eventBytes 14 (n.val + 1) inc.toNat rest
    | .control | .ring | .scrub => eventBytes 14 0 0 rest
  | .extentBad extent errors timeouts =>
    eventBytes 15 0 0 (leBytes 2 extent ++ leBytes 2 errors ++ leBytes 2 timeouts)
  | .scrubIdle free bad => eventBytes 16 0 0 (leBytes 2 free ++ leBytes 2 bad)

/-- How many extents below the extent count are in one of the states given (R104). -/
def State.countIn (s : State) (sts : List ExtentState) : Nat :=
  (List.range s.ext.count).countP fun x => decide ((s.extent x).state ∈ sts)

/-! ### The status block -/

/-- What a unit of the status block shows: the fields that its write carries (R189, 11.5). -/
def State.unitShows (s : State) (u : StatusUnit) : Fields :=
  match u with
  | .header => headerFields s.ext s.ring
  | .slot n => (s.slot n).statusFields
  | .extentMap k => [(0, 8, extentMapValue s.ext k.val)]

/-- A write of a unit is owed: the unit is stale, or a write of it waits in the ring request queue (R189). -/
def State.owes (s : State) (u : StatusUnit) : Prop := u ∈ s.ring.stale ∨ RingOp.status u ∈ s.ring.queue

/-- The change from `s` to `t` loses no unit of the status block: what was owed is owed, and so is every unit whose values
have changed (R189). -/
def keepsOwed (s t : State) : Prop := ∀ u, s.owes u ∨ t.unitShows u ≠ s.unitShows u → t.owes u

/-! ### COMMIT -/

/-- The extent of a staging entry is not acceptable to check d (R94). -/
def Extent.unacceptable (x : Extent) (n : SlotId) (rw : Bool) : Prop :=
  match x.state with
  | .free => False
  | .owned => x.owner ≠ some n
  | .shared => x.withdrawn = true ∨ rw = true
  | .dirty | .scrubbing | .bad => True

/-- Staging entry `i` of slot `n` fails check `c` of a COMMIT: the extent number, the page or the extent named at a lower
index, the extent's state (R93). -/
def State.commitFails (s : State) (n : SlotId) (i c : Nat) : Prop :=
  ∃ e : MapEntry, (s.slot n).staging[i]? = some (some e) ∧
    ((c = 1 ∧ s.ext.count ≤ e.extent) ∨
      (c = 2 ∧ ∃ j b, j < i ∧ (s.slot n).staging[j]? = some (some b) ∧ b.page = e.page) ∨
      (c = 3 ∧ ∃ j b, j < i ∧ (s.slot n).staging[j]? = some (some b) ∧ b.extent = e.extent) ∨
      (c = 4 ∧ (s.extent e.extent).unacceptable n e.rw))

/-- Staging entry `i` is the first that fails a check, and `c` the first check that it fails (R93). -/
def State.commitFailsFirst (s : State) (n : SlotId) (i c : Nat) : Prop :=
  s.commitFails n i c ∧ (∀ d, d < c → ¬ s.commitFails n i d) ∧ ∀ j, j < i → ∀ d, ¬ s.commitFails n j d

/-! ### Ends and requests -/

/-- What the end of VACATING leaves of a slot, by presence and the seated-while-vacating flag (R151). -/
def Slot.vacated (sl : Slot) (now debounce : Nat) : Slot :=
  if sl.present = true then
    { sl with
      map := Vector.replicate 32 none, effCredit := 0, identityOk := false, seated := false, state := .seating,
      forced := false, timer := .running now (debounce * 1000) }
  else
    { sl with
      map := Vector.replicate 32 none, effCredit := 0, identityOk := false, seated := false, state := .empty,
      staging := Vector.replicate 32 none, timer := .stopped, fault := none, removeOk := false,
      counters := if sl.seated = true then sl.counters.addBounce else sl.counters }

/-- A request `r` of the kind given is in execution. -/
def State.executing (s : State) (r : Request) (kind : Nat) : Prop := s.ring.exec = some r ∧ r.kind.toNat = kind

/-- A request names a slot by its number, 1 to 14. -/
def Request.names (r : Request) (n : SlotId) : Prop := r.slot.toNat = n.val + 1

/-- The request in execution answered, and nothing else changed: the response in the place reserved for it (R184, R185). -/
def State.answeredWith (s : State) (a : Response) : State :=
  { s with
    ring := { s.ring with pend := s.ring.pend ++ [.response a], reserved := s.ring.reserved - 1, exec := none } }

/-- The Ring Interface after the request in execution is answered: its place is used, and no request is in execution;
units of the status block may have become stale (R184, R185). -/
def ringAnswered (r r' : Ring) (a : Response) : Prop :=
  r' = { r with pend := r.pend ++ [.response a], reserved := r.reserved - 1, exec := none, stale := r'.stale }

/-! ## A slot's own invariants -/

/-- The lines of the table of R2, and REMOVE_OK exactly in RETIRED and FAULTED. -/
def Slot.linesOk (sl : Slot) : Bool :=
  (match sl.state with
    | .empty | .seating | .retired | .faulted | .vacating => !sl.pwrEn && !sl.linkEn
    | .powering | .identifying | .pending => sl.pwrEn && !sl.linkEn
    | .probing | .settling | .live | .holding | .held | .grace => sl.pwrEn && sl.linkEn
    | .retiring => sl.pwrEn || !sl.linkEn) &&
  (sl.removeOk == decide (sl.state = .retired ∨ sl.state = .faulted))

/-- The intake mode that a state with the link isolated or up asks for (R64); GRACE has its resume state's. -/
def intakeOf (st : SlotState) (linkEn : Bool) : Intake :=
  match st with
  | .probing => .probe
  | .settling | .live => .translated
  | .holding | .held => .closed
  | .retiring => if linkEn then .fence else .none
  | .empty | .seating | .powering | .identifying | .pending | .grace | .retired | .faulted | .vacating => .none

/-- The intake mode of R64. -/
def Slot.intakeOk (sl : Slot) : Bool :=
  match sl.state, sl.resume with
  | .grace, some back => decide (sl.intake = intakeOf back sl.linkEn)
  | st, _ => decide (sl.intake = intakeOf st sl.linkEn)

/-- The states whose effective credit is 0 in the table of R2. -/
def SlotState.noCredit : SlotState → Bool
  | .empty | .seating | .powering | .identifying | .pending | .probing | .retired | .faulted => true
  | .settling | .live | .holding | .held | .grace | .retiring | .vacating => false

/-- The fault cause in FAULTED alone, the resume state in GRACE alone and a traffic state, the pending fault in RETIRING
alone, and a credit of 0 where R2 gives 0 (R1, R2). -/
def Slot.fieldsOk (sl : Slot) : Bool :=
  (sl.fault.isSome == decide (sl.state = .faulted)) &&
  (sl.resume.isSome == decide (sl.state = .grace)) &&
  sl.resume.all SlotState.traffic &&
  (sl.pendingFault.isNone || decide (sl.state = .retiring)) &&
  (!sl.state.noCredit || decide (sl.effCredit = 0))

/-- The states with no duration in the table of R2. -/
def SlotState.untimed : SlotState → Bool
  | .empty | .identifying | .pending | .live | .held | .retired | .faulted => true
  | .seating | .powering | .probing | .settling | .holding | .grace | .retiring | .vacating => false

/-- The slot timer is stopped exactly in the states with no duration (R2, R3). -/
def Slot.timerOk (sl : Slot) : Bool := decide (sl.timer = .stopped) == sl.state.untimed

/-- The states that may hold queued requests: the traffic states, GRACE, RETIRING and VACATING (R74). -/
def SlotState.mayQueue : SlotState → Bool
  | .settling | .live | .holding | .held | .grace | .retiring | .vacating => true
  | .empty | .seating | .powering | .identifying | .pending | .probing | .retired | .faulted => false

/-- The places are eight, the link is up only while LINK_EN is asserted, a link that is down has no place open and
no partly received frame, requests are queued only in the states that carry traffic, and only writes are queued in
VACATING (R24, R60, R63, R74). -/
def Slot.placesOk (sl : Slot) : Bool :=
  decide (sl.ingress.length + sl.partlyPlaces + sl.placesOpen ≤ 8) &&
  (sl.linkEn || !sl.linkUp) &&
  (sl.linkUp || (decide (sl.placesOpen = 0) && sl.partly.isNone)) &&
  (sl.state.mayQueue || sl.ingress.isEmpty) &&
  (decide (sl.state ≠ .vacating) || decide (queuedWritesOf sl.ingress = sl.ingress))

/-- The invariants of one slot. -/
def Slot.ok (sl : Slot) : Bool := sl.linesOk && sl.intakeOk && sl.fieldsOk && sl.timerOk && sl.placesOk

/-- Every slot keeps its invariants, and while the part is not attached every slot is EMPTY (R8). -/
def State.slotsOk (s : State) : Prop :=
  ∀ n, (s.slot n).ok = true ∧ (s.ring.state ≠ .attached → (s.slot n).state = .empty)

/-! ## The Ring Interface -/

/-- Whether the ownership mirror holds a FULL entry. -/
def Ring.anyFull (r : Ring) : Bool := r.mirror.toList.any fun v => v == .full

/-- ATTN is asserted exactly when the mirror holds a FULL entry; throughout DETACHED it is deasserted and the mirror holds
EMPTY alone; the ring request queue holds at most 16 requests, and a request waits for a place only while it is full (R180,
R187, R188). -/
def Ring.ok (r : Ring) : Prop :=
  r.attn = r.anyFull ∧ (r.state = .detached → r.attn = false ∧ ∀ i, r.mirror.get i = .empty) ∧
    r.queue.length ≤ 16 ∧ (r.waiting = [] ∨ r.queue.length = 16)

/-- The extent count, the extents of the scrub queue and the current extent lie within the 2,048 records (R82, R83, R168). -/
def State.extentsOk (s : State) : Prop :=
  s.ext.count ≤ 2048 ∧ (∀ x ∈ s.ext.queue, x < 2048) ∧ ∀ x, s.scrub.current = some x → x < 2048

/-- `Ring.ok` of the whole part, and `extentsOk`. -/
def State.ringOk (s : State) : Prop := s.ring.ok ∧ s.extentsOk

/-- Whether a job answers a SIDEBAND request. -/
def Job.isRequest : Job → Bool
  | .identity _ _ => false
  | .request _ _ _ _ _ => true

/-- How many accepted SIDEBAND requests the engine has not answered. -/
def Sideband.owed (sb : Sideband) : Nat := (sb.running.toList ++ sb.queue).countP Job.isRequest

/-- Every reserved place belongs to the request in execution or to an unanswered SIDEBAND request, and entries and
reserved places number at most 32 (R184, R185). -/
def State.placesReserved (s : State) : Prop :=
  s.ring.reserved = s.ring.exec.toList.length + s.sb.owed ∧ s.ring.pend.length + s.ring.reserved ≤ 32

/-- The job queue holds at most 16 jobs, slots wait for a place of it only while it is full and stand in ascending order
without repeats, no job waits while none runs, the access phase is IDLE exactly when no job runs, and an access that failed
in ACK_WAIT is in STOP (R28, R30 to R33). -/
def Sideband.ok (sb : Sideband) : Prop :=
  sb.queue.length ≤ 16 ∧ (sb.waiting = [] ∨ sb.queue.length = 16) ∧ sb.waiting.Pairwise (· < ·) ∧
    (sb.running = none → sb.queue = [] ∧ sb.waiting = []) ∧
    (sb.phase = .idle ↔ sb.running = none) ∧ (sb.failed = true → sb.phase = .stop)

/-- The queues of R28 and R178 hold at most 16, and the control link holds back only while its queue is full. -/
def State.queuesOk (s : State) : Prop :=
  s.sb.ok ∧ s.ctl.queue.length ≤ 16 ∧ (s.ctl.heldBack = [] ∨ s.ctl.queue.length = 16)

/-! ## The tracker -/

/-- Only a read waits for its slot's link, and only a read's answer is kept (R108). -/
def Entry.keepsOk (e : Entry) : Bool :=
  decide (e.kind = .read) || (decide (e.state ≠ .waiting) && decide (e.held = .none))

/-- Only reads wait; no slot exceeds its effective credit, every entry that counts for it is of its current incarnation,
and no read counts for a VACATING slot (R24, R108, R111). -/
def State.creditsOk (s : State) : Prop :=
  (∀ t, (s.entry t).keepsOk = true) ∧
    ∀ n, s.inFlight (.slot n) ≤ (s.slot n).effCredit ∧
      (∀ t, (s.entry t).countsFor n = true → (s.entry t).incarnation = (s.slot n).incarnation) ∧
      ((s.slot n).state = .vacating → ∀ t, (s.entry t).countsFor n = true → (s.entry t).kind = .write)

/-- The tracker's invariant together with the slots' that it rests on. -/
def State.trafficOk (s : State) : Prop := s.slotsOk ∧ s.creditsOk

end Sys2Proof.Machine
end

