-- ==== Sys2Proof/Certificates/Slice0/Obligations.lean ====
section
/-! DEFINITION. The statements for the provers. -/

open Sys2Proof Sys2Proof.Machine

/-! ## The block -/

/-- A command at the front of the queue is executed on the state with the rest of the queue; with no command waiting, one
microsecond passes, and a moment that lies ahead is reached through the microseconds before it. That time passes so is the
model's choice (log 5). -/
def Obligations.StepRunsTheFrontCommand : Prop :=
  (∀ (c : Instr) (rest : List Instr) (s : State), s.pending = c :: rest →
    step s = exec c { s with pending := rest }) ∧
  (∀ s : State, s.pending = [] → step s = .next (s.reach (s.now + 1))) ∧
  (∀ (s : State) (m : Nat), m ≤ s.now → s.reach m = s) ∧
  (∀ (s : State) (m : Nat), s.now ≤ m → s.reach (m + 1) = (s.reach m).reach (m + 1))

/-- RESET puts the slots, the engines, the tracker, the extent records and the Ring Interface to their reset values and
empties the control ingress queue, here with nothing held back on its link (R27, R28, R60, R83, R109, R168, R178, R180).
That the parameters stand is the model's choice (log 1; the manual holds the geometry and the sideband timeout), and so is
that the straps stand (log 2), that the list of requests out on the memory link stands (log 16), and that the moment and
the queue of commands do (log 5). -/
def Obligations.ResetPutsEveryBlockToItsResetValues : Prop :=
  ∀ s : State, ∃ t, exec .reset s = .next t ∧
    (∀ n, t.slot n = Slot.reset) ∧
    t.sb = { Sideband.reset with timeout := s.sb.timeout } ∧
    t.trk = { Tracker.reset with link := s.trk.link } ∧
    (∀ x, t.extent x = Extent.free) ∧ t.ext.queue = [] ∧ t.ext.count = 0 ∧
    t.scrub = ScrubEngine.reset ∧
    t.ring.state = .detached ∧ t.ring.consumer = 0 ∧ t.ring.producer = 0 ∧ (∀ i, t.ring.mirror.get i = .empty) ∧
    t.ring.held = none ∧ t.ring.exec = none ∧ t.ring.pend = [] ∧ t.ring.reserved = 0 ∧ t.ring.queue = [] ∧
    t.ring.waiting = [] ∧ t.ring.stale = [] ∧ t.ring.lost = 0 ∧ t.ring.attn = false ∧
    (s.ctl.heldBack = [] → t.ctl = { s.ctl with queue := [] }) ∧
    t.ring.reqBase = s.ring.reqBase ∧ t.ring.reqSize = s.ring.reqSize ∧ t.ring.respBase = s.ring.respBase ∧
    t.ring.respSize = s.ring.respSize ∧ t.ring.statusBase = s.ring.statusBase ∧
    t.params = s.params ∧ t.attachSel = s.attachSel ∧ t.now = s.now ∧ t.pending = s.pending

/-! ## The slot lines -/

/-- A presence rise, while attached, moves an EMPTY slot to SEATING with the debounce started and sets the
seated-while-vacating flag in VACATING; elsewhere, and while the part is not attached, it changes the level alone (R4, R9,
R24). -/
def Obligations.PresenceRiseSeatsOrRecords : Prop :=
  ∀ (s : State) (n : SlotId), ∃ t, exec (.presenceRise n) s = .next t ∧ t.now = s.now ∧
    slotBecomes n s t
      (if s.ring.state = .attached ∧ (s.slot n).state = .empty then
        { s.slot n with
          present := true, state := .seating, forced := false, timer := .running s.now (s.params.debounce * 1000) }
      else if s.ring.state = .attached ∧ (s.slot n).state = .vacating then
        { s.slot n with present := true, seated := true }
      else { s.slot n with present := true })

/-- A presence drop in a state before or after traffic ends the slot's activity, empties its staging set and leaves it
EMPTY, with REMOVED, surprise clear (R23, R153); in SEATING it leaves the slot EMPTY, counted in BOUNCE and not posted
(R9, R23); in EMPTY, in VACATING and while the part is not attached it changes the level alone (R4, R8, R24). The model's
choices: the NO_BLADE answers of the cancelled jobs stand before REMOVED (log 40), and of these the running job's before
those of the queued ones (log 20). -/
def Obligations.PresenceDropOutsideTrafficEmpties : Prop :=
  ∀ (s : State) (n : SlotId),
    (s.ring.state = .attached →
      (s.slot n).state ∈ [.powering, .identifying, .pending, .probing, .retired, .faulted] →
      ∃ t, exec (.presenceDrop n) s = .next t ∧ t.now = s.now ∧
        shutsDown n s t
          { (s.slot n).shut with
            present := false, state := .empty, staging := Vector.replicate 32 none, identityOk := false,
            timer := .stopped, effCredit := 0, fault := none, removeOk := false }
          (.removed n (s.slot n).incarnation false (s.slot n).state)) ∧
    (s.ring.state = .attached → (s.slot n).state = .seating →
      ∃ t, exec (.presenceDrop n) s = .next t ∧ t.now = s.now ∧
        slotBecomes n s t { s.slot n with
          present := false, state := .empty, staging := Vector.replicate 32 none, identityOk := false,
          timer := .stopped, effCredit := 0, fault := none, removeOk := false,
          counters := (s.slot n).counters.addBounce }) ∧
    (s.ring.state ≠ .attached ∨ (s.slot n).state ∈ [.empty, .vacating] →
      ∃ t, exec (.presenceDrop n) s = .next t ∧ t.now = s.now ∧ slotBecomes n s t { s.slot n with present := false })

/-- A presence drop in a traffic state, GRACE or RETIRING moves the slot to VACATING: link and power off, jobs cancelled,
reads given up, writes, map and credit kept, the drain limit in full, REMOVED with surprise set; a slot with no write left,
queued or in flight, is drained at its entry, and leaves VACATING for EMPTY in the same step, its map released and VACATED
posted after REMOVED (R23, R24, R32, R33, R133, R148, R151). The model's choices: the NO_BLADE answers of the cancelled jobs
stand before REMOVED (log 39), and of these the running job's before those of the queued ones (log 20). -/
def Obligations.PresenceDropInTrafficVacates : Prop :=
  ∀ (s : State) (n : SlotId), s.ring.state = .attached →
    (s.slot n).state ∈ [.settling, .live, .holding, .held, .grace, .retiring] →
    ∃ t, exec (.presenceDrop n) s = .next t ∧ t.now = s.now ∧
      (∀ m, m ≠ n → t.slot m = s.slot m) ∧
      entriesBecome s t (fun e => e.givenUp n (s.slot n).incarnation) ∧ t.sb = s.jobsCancelled n ∧ t.sb.noJobs n ∧
      keepsRest s t ∧
      (let vacating : Slot := { (s.slot n).drainOfWrites with
        present := false, state := .vacating, pwrEn := false, sbdatLow := false, resume := none, pendingFault := none,
        forced := false, seated := false, timer := .running s.now (s.params.drainLimit * 1000) }
      (s.writesLeft n → t.slot n = vacating ∧ t.ext = s.ext ∧ scrubHears s t [] ∧
        ∃ r, ringShut n s r ∧ t.ring = r.postEvent (.removed n (s.slot n).incarnation true (s.slot n).state)) ∧
      (¬ s.writesLeft n → t.slot n = vacating.vacated s.now s.params.debounce ∧ mapReleased n s t ∧
        ∃ r r' : Ring, ringShut n s r ∧
          r' = { r.postEvent (.removed n (s.slot n).incarnation true (s.slot n).state) with stale := r'.stale } ∧
          ringNoticed n (r'.postEvent (.vacated n (s.slot n).incarnation false (t.orphanCount n) false)) t.ring))

/-- An ejector edge that retires nothing records the level and, while attached and outside EMPTY and SEATING, posts EJECTOR
(R4, R19). -/
def Obligations.EjectorEdgesRecordAndPost : Prop :=
  ∀ (s : State) (n : SlotId) (opened : Bool),
    (opened = true → ¬ (s.ring.state = .attached ∧ s.params.autoRetire = true ∧
      (s.slot n).state ∈ [.settling, .live, .holding, .held, .grace])) →
    ∃ t, exec (if opened then .ejectorOpened n else .ejectorClosed n) s = .next t ∧ t.now = s.now ∧
      t.slot n = { s.slot n with eject := opened, ejectorOpen := opened } ∧ keepsAllBut n s t ∧
      (if s.ring.state = .attached ∧ (s.slot n).state ≠ .empty ∧ (s.slot n).state ≠ .seating then
        ∃ r, ringNoticed n s.ring r ∧ t.ring = r.postEvent (.ejector n (s.slot n).incarnation opened)
      else ringNoticed n s.ring t.ring)

/-- An ejector opened with auto-retire posts EJECTOR and retires the slot. In a traffic state with a request queued or in
flight it moves to RETIRING under the fence, with every free place granted and the drain limit started; what the link held
back then arrives, as if sent under the fence. A traffic state drained at the opening is RETIRED in the same step, and a
slot in GRACE drains under the link-down rules with no pending fault (R19, R20, R77, R133, R164). That the NO_BLADE answer
of a running job stands before those of the queued ones is the model's choice (log 20). -/
def Obligations.EjectorOpenedAutoRetires : Prop :=
  ∀ (s : State) (n : SlotId), s.ring.state = .attached → s.params.autoRetire = true →
    ((s.slot n).state ∈ [.settling, .live, .holding, .held] →
      ((s.slot n).ingress ≠ [] ∨ s.inFlight (.slot n) ≠ 0) → (s.slot n).linkEn = true → (s.slot n).linkUp = true →
      ∃ u t, exec (.ejectorOpened n) s = .next t ∧ u.now = s.now ∧
        u.slot n = { s.slot n with
          eject := true, ejectorOpen := true, state := .retiring, resume := none, forced := false, pendingFault := none,
          intake := .fence, placesOpen := (s.slot n).freePlaces, heldBack := [],
          timer := .running s.now (s.params.drainLimit * 1000) } ∧
        keepsAllBut n s u ∧
        (∃ r, ringNoticed n s.ring r ∧
          ringNoticed n (r.postEvent (.ejector n (s.slot n).incarnation true)) u.ring) ∧
        heldBackArrives n (s.slot n).heldBack u t) ∧
    ((s.slot n).state ∈ [.settling, .live, .holding, .held] → (s.slot n).ingress = [] →
      s.inFlight (.slot n) = 0 →
      ∃ q t, exec (.ejectorOpened n) s = .next t ∧ t.now = s.now ∧ ringNoticed n s.ring q ∧
        shutsDown n { s with ring := q.postEvent (.ejector n (s.slot n).incarnation true) } t
          { (s.slot n).retired with eject := true, ejectorOpen := true, resume := none, forced := false }
          (.retired n (s.slot n).incarnation false (s.orphanCount n))) ∧
    ((s.slot n).state = .grace →
      ∃ q t, exec (.ejectorOpened n) s = .next t ∧ t.now = s.now ∧ ringNoticed n s.ring q ∧
        drainsLinkDown n { s with ring := q.postEvent (.ejector n (s.slot n).incarnation true) } t
          { (s.slot n).drainOfWrites with
            counters := if (s.slot n).partly.isSome then (s.slot n).counters.addTorn else (s.slot n).counters,
            eject := true, ejectorOpen := true, state := .retiring, resume := none, forced := false,
            pendingFault := none, timer := .running s.now (s.params.drainLimit * 1000) } ∧
        (s.writesLeft n → t.sb = s.sb ∧
          ringNoticed n (q.postEvent (.ejector n (s.slot n).incarnation true)) t.ring))

/-- A PWR_GOOD rise in POWERING moves the slot to IDENTIFYING and hands over an identity job: with no other job it runs at
once, its access in LINE_CHECK or past it by the level of SBDAT; it joins the tail of a queue with a place, and waits in the
identity set behind a full one (R10, R31 to R33). In every other state, and while the part is not attached, the level alone
changes (R4, R8, R18). -/
def Obligations.PwrGoodRiseIdentifies : Prop :=
  ∀ (s : State) (n : SlotId),
    (s.ring.state = .attached → (s.slot n).state = .powering →
      ∃ t, exec (.pwrGoodRise n) s = .next t ∧
        identifies n s t { s.slot n with pwrGood := true, state := .identifying, timer := .stopped } ∧
        ringNoticed n s.ring t.ring) ∧
    (s.ring.state ≠ .attached ∨ (s.slot n).state ≠ .powering →
      ∃ t, exec (.pwrGoodRise n) s = .next t ∧ t.now = s.now ∧ slotBecomes n s t { s.slot n with pwrGood := true })

/-- A PWR_GOOD drop in IDENTIFYING, PENDING or PROBING faults the slot with POWER_LOST (R6, R18). The model's choices: the
NO_BLADE answers of the cancelled jobs stand before FAULTED (log 40), and of these the running job's before those of the
queued ones (log 20). -/
def Obligations.PwrGoodDropBeforeTrafficFaults : Prop :=
  ∀ (s : State) (n : SlotId), s.ring.state = .attached →
    (s.slot n).state ∈ [.identifying, .pending, .probing] →
    ∃ t, exec (.pwrGoodDrop n) s = .next t ∧ t.now = s.now ∧
      shutsDown n s t { (s.slot n).faulted .powerLost with pwrGood := false }
        (.faulted n (s.slot n).incarnation (s.slot n).forced 0 .powerLost 0)

/-- A PWR_GOOD drop in a traffic state or GRACE moves the slot to RETIRING with pending fault POWER_LOST under the link-down
drain rules, jobs cancelled and power off, and posts no event itself; in RETIRING with power on it sets the pending fault,
cuts link and power, and the drain limit goes on; a slot with no write left ends its drain in FAULTED in the same step
(R18, R32, R133, R141, R144, R166). In RETIRING without power and in the states that R18 does not name, the level alone
changes. That the NO_BLADE answer of a running job stands before those of the queued ones is the model's choice (log 20). -/
def Obligations.PwrGoodDropInTrafficRetires : Prop :=
  ∀ (s : State) (n : SlotId), s.ring.state = .attached →
    ((s.slot n).state ∈ [.settling, .live, .holding, .held, .grace] →
      ∃ t, exec (.pwrGoodDrop n) s = .next t ∧ t.now = s.now ∧
        drainsLinkDown n s t { (s.slot n).drainOfWrites with
          pwrGood := false, state := .retiring, pwrEn := false, sbdatLow := false, resume := none,
          pendingFault := some .powerLost, forced := false,
          timer := .running s.now (s.params.drainLimit * 1000) } ∧
        t.sb = s.jobsCancelled n ∧ t.sb.noJobs n ∧ (s.writesLeft n → ringShut n s t.ring)) ∧
    ((s.slot n).state = .retiring → (s.slot n).pwrEn = true →
      ∃ t, exec (.pwrGoodDrop n) s = .next t ∧ t.now = s.now ∧
        drainsLinkDown n s t { (s.slot n).drainOfWrites with
          pwrGood := false, pwrEn := false, sbdatLow := false, pendingFault := some .powerLost } ∧
        t.sb = s.jobsCancelled n ∧ t.sb.noJobs n ∧ (s.writesLeft n → ringShut n s t.ring)) ∧
    ((s.slot n).state ∈ [.empty, .seating, .powering, .retired, .faulted, .vacating] ∨
        ((s.slot n).state = .retiring ∧ (s.slot n).pwrEn = false) →
      ∃ t, exec (.pwrGoodDrop n) s = .next t ∧ t.now = s.now ∧ slotBecomes n s t { s.slot n with pwrGood := false })

/-! ## The slot timer and the drains -/

/-- An expiry acts only in the state that started the timer (R3). Time until a moment leaves the tracker, the control port
and every slot that is not IDENTIFYING as they are, but for the level of its SBDAT; that it passes with an expiry that
lies ahead is the model's choice (log 5). -/
def Obligations.ExpiriesActOnlyInTheirState : Prop :=
  ∀ (s : State) (n : SlotId),
    ((s.slot n).state ≠ .seating → exec (.debounceExpiry n) s = .next s) ∧
    ((s.slot n).state ≠ .powering → exec (.powerLimitExpiry n) s = .next s) ∧
    ((s.slot n).state ≠ .probing → exec (.probeLimitExpiry n) s = .next s) ∧
    ((s.slot n).state ≠ .settling → exec (.rampStepExpiry n) s = .next s) ∧
    ((s.slot n).state ≠ .holding → exec (.holdLimitExpiry n) s = .next s) ∧
    ((s.slot n).state ≠ .grace → exec (.graceExpiry n) s = .next s) ∧
    ((s.slot n).state ≠ .retiring → exec (.drainLimitExpiry n) s = .next s) ∧
    ((s.slot n).state ≠ .vacating → exec (.vacatingDrainLimitExpiry n) s = .next s) ∧
    ∀ m, (s.reach m).now = max s.now m ∧ (s.reach m).trk = s.trk ∧ (s.reach m).ctl = s.ctl ∧
      (s.reach m).params = s.params ∧ (s.reach m).attachSel = s.attachSel ∧ (s.reach m).pending = s.pending ∧
      ((s.slot n).state ≠ .identifying →
        (s.reach m).slot n = { s.slot n with sbdatLow := ((s.reach m).slot n).sbdatLow })

/-- The debounce expiring in SEATING powers the slot: POWERING with the power limit started, or IDENTIFYING at once where
PWR_GOOD is up already, with an identity job handed over (R9, R10, R33). -/
def Obligations.DebounceExpiryPowers : Prop :=
  ∀ (s : State) (n : SlotId), (s.slot n).state = .seating →
    ((s.slot n).pwrGood = false →
      ∃ u t, u = s.reach (s.slot n).timer.due ∧ exec (.debounceExpiry n) s = .next t ∧ t.now = u.now ∧
        slotBecomes n u t { u.slot n with
          state := .powering, pwrEn := true, removeOk := false,
          timer := .running u.now (s.params.powerLimit * 1000) }) ∧
    ((s.slot n).pwrGood = true →
      ∃ u t, u = s.reach (s.slot n).timer.due ∧ exec (.debounceExpiry n) s = .next t ∧
        identifies n u t { u.slot n with
          state := .identifying, pwrEn := true, removeOk := false, timer := .stopped } ∧
        ringNoticed n u.ring t.ring)

/-- The expiries and outcomes that fault a slot before it has traffic: the power limit in POWERING, the probe limit in
PROBING, a link down in PROBING and a fault outcome of the probe, LANE with its mask (R6, R10, R13, R51). The model's
choices: the NO_BLADE answers of the cancelled jobs stand before FAULTED (log 40), and of these the running job's before
those of the queued ones (log 20). -/
def Obligations.FaultsBeforeTraffic : Prop :=
  ∀ (s : State) (n : SlotId),
    ((s.slot n).state = .powering →
      ∃ u t, u = s.reach (s.slot n).timer.due ∧ exec (.powerLimitExpiry n) s = .next t ∧ t.now = u.now ∧
        shutsDown n u t ((u.slot n).faulted .powerTimeout)
          (.faulted n (s.slot n).incarnation (s.slot n).forced 0 .powerTimeout 0)) ∧
    ((s.slot n).state = .probing →
      ∃ u t, u = s.reach (s.slot n).timer.due ∧ exec (.probeLimitExpiry n) s = .next t ∧ t.now = u.now ∧
        shutsDown n u t ((u.slot n).faulted .probeTimeout)
          (.faulted n (s.slot n).incarnation (s.slot n).forced 0 .probeTimeout 0)) ∧
    ((s.slot n).state = .probing → (s.slot n).linkEn = true → (s.slot n).linkUp = true →
      ∃ t, exec (.linkDown n) s = .next t ∧ t.now = s.now ∧
        shutsDown n s t ((s.slot n).faulted .link)
          (.faulted n (s.slot n).incarnation (s.slot n).forced 0 .link 0)) ∧
    (∀ o c mask, ((o = .laneMismatch ∧ c = .lane ∧ mask = (s.slot n).laneMask) ∨
        (o = .wrongKey ∧ c = .key ∧ mask = 0) ∨ (o = .glitchLimit ∧ c = .glitch ∧ mask = 0)) →
      (s.slot n).state = .probing → (s.slot n).outcome = some o →
      ∃ t, exec (.probeFault n) s = .next t ∧ t.now = s.now ∧
        shutsDown n s t ((s.slot n).faulted c)
          (.faulted n (s.slot n).incarnation (s.slot n).forced 0 c mask))

/-- A ramp step expiring in SETTLING raises the credit by 1: LIVE with its event when the configured credit is reached,
the ramp step in full again otherwise (R14, R56). -/
def Obligations.RampStepRaisesTheCredit : Prop :=
  ∀ (s : State) (n : SlotId), (s.slot n).state = .settling →
    ∃ u t, u = s.reach (s.slot n).timer.due ∧ exec (.rampStepExpiry n) s = .next t ∧ t.now = u.now ∧
      (if (s.slot n).effCredit + 1 = (s.slot n).cfgCredit then
        slotBecomesPosting n u t
          { u.slot n with effCredit := (s.slot n).effCredit + 1, state := .live, timer := .stopped }
          (.live n (s.slot n).incarnation ((s.slot n).effCredit + 1))
      else
        slotBecomes n u t
          { u.slot n with
            effCredit := (s.slot n).effCredit + 1, timer := .running u.now (s.params.rampStep * 10) })

/-- A hold ends in HELD when the slot is found drained, and in LIVE when the hold limit expires first: every free place is
granted, what the link held back then arrives as if sent in LIVE, and HOLD_FAILED is posted with the counts at the expiry
(R15, R64, R65, R136). That it is posted after those frames is read from the manual by the model (log 28). -/
def Obligations.HoldEndsInHeldOrLive : Prop :=
  ∀ (s : State) (n : SlotId), (s.slot n).state = .holding →
    ((s.slot n).ingress = [] → s.inFlight (.slot n) = 0 →
      ∃ t, exec (.holdDrainComplete n) s = .next t ∧ t.now = s.now ∧
        slotBecomesPosting n s t { s.slot n with state := .held, timer := .stopped }
          (.held n (s.slot n).incarnation)) ∧
    ((s.slot n).linkUp = true → (s.slot n).heldBack = [] →
      ∃ u t, u = s.reach (s.slot n).timer.due ∧ exec (.holdLimitExpiry n) s = .next t ∧ t.now = u.now ∧
        slotBecomesPosting n u t
          { u.slot n with
            state := .live, timer := .stopped, intake := .translated, placesOpen := (s.slot n).freePlaces }
          (.holdFailed n (s.slot n).incarnation (s.slot n).ingress.length (s.inFlight (.slot n)) (s.lateCount n))) ∧
    ((s.slot n).linkEn = true → (s.slot n).linkUp = true →
      ∃ u v w t, u = s.reach (s.slot n).timer.due ∧ exec (.holdLimitExpiry n) s = .next t ∧ v.now = u.now ∧
        slotBecomes n u v
          { u.slot n with
            state := .live, timer := .stopped, intake := .translated, placesOpen := (s.slot n).freePlaces,
            heldBack := [] } ∧
        heldBackArrives n (s.slot n).heldBack v w ∧
        t = { w with ring := w.ring.postEvent (.holdFailed n (s.slot n).incarnation (s.slot n).ingress.length
          (s.inFlight (.slot n)) (s.lateCount n)) })

/-- A grace expiring in GRACE moves the slot to RETIRING with pending fault LINK under the link-down drain rules; with a
write left, power and jobs stand and no event is posted, and with none the drain ends in FAULTED(LINK) in the same step
(R17, R133, R141, R144, R163). That there the NO_BLADE answer of a running job stands before those of the queued ones is
the model's choice (log 20). -/
def Obligations.GraceExpiryRetires : Prop :=
  ∀ (s : State) (n : SlotId), (s.slot n).state = .grace →
    ∃ u t, u = s.reach (s.slot n).timer.due ∧ exec (.graceExpiry n) s = .next t ∧ t.now = u.now ∧
      drainsLinkDown n u t { (u.slot n).drainOfWrites with
        counters := if (s.slot n).partly.isSome then (s.slot n).counters.addTorn else (s.slot n).counters,
        state := .retiring, resume := none, pendingFault := some .link, forced := false,
        timer := .running u.now (s.params.drainLimit * 1000) } ∧
      (u.writesLeft n → t.sb = u.sb ∧ ringNoticed n u.ring t.ring)

/-- The drain limit expiring in RETIRING forces the drain: the queue dropped, its writes counted, every entry in flight
orphaned, the held answers freed, and the drain ended with the forced flag set (R21, R32, R143, R144, R145). That the
NO_BLADE answer of a running job stands before those of the queued ones is the model's choice (log 20). -/
def Obligations.DrainLimitExpiryForcesTheEnd : Prop :=
  ∀ (s : State) (n : SlotId), (s.slot n).state = .retiring →
    ∃ u t, u = s.reach (s.slot n).timer.due ∧ exec (.drainLimitExpiry n) s = .next t ∧ t.now = u.now ∧
      t.slot n =
        (let sl := { u.slot n with
          ingress := [], forced := true, holdList := [],
          counters := (s.slot n).counters.addDropped (queuedWritesOf (s.slot n).ingress).length }
        match (s.slot n).pendingFault with
        | none => sl.retired
        | some .powerLost => sl.faulted .powerLost
        | some .link => sl.faulted .link) ∧
      (∀ m, m ≠ n → t.slot m = u.slot m) ∧
      entriesBecome u t (fun e => e.allGivenUp n (s.slot n).incarnation) ∧
      mapReleased n u t ∧ t.sb = u.jobsCancelled n ∧ t.sb.noJobs n ∧ keepsRest u t ∧
      ∃ r, ringShut n u r ∧ t.ring = r.postEvent
        (match (s.slot n).pendingFault with
        | none => .retired n (s.slot n).incarnation true (t.orphanCount n)
        | some .powerLost => .faulted n (s.slot n).incarnation true (t.orphanCount n) .powerLost 0
        | some .link => .faulted n (s.slot n).incarnation true (t.orphanCount n) .link 0)

/-- A drained RETIRING slot ends its drain in RETIRED, or in FAULTED with the pending fault as its cause (R21, R144). That
the NO_BLADE answer of a running job stands before those of the queued ones is the model's choice (log 20). -/
def Obligations.DrainEndRetiresOrFaults : Prop :=
  ∀ (s : State) (n : SlotId), (s.slot n).state = .retiring → (s.slot n).ingress = [] →
    s.inFlight (.slot n) = 0 →
    ∃ t, exec (.drainEnd n) s = .next t ∧ t.now = s.now ∧
      shutsDown n s t
        (match (s.slot n).pendingFault with
        | none => (s.slot n).retired
        | some .powerLost => (s.slot n).faulted .powerLost
        | some .link => (s.slot n).faulted .link)
        (match (s.slot n).pendingFault with
        | none => .retired n (s.slot n).incarnation (s.slot n).forced (s.orphanCount n)
        | some .powerLost => .faulted n (s.slot n).incarnation (s.slot n).forced (s.orphanCount n) .powerLost 0
        | some .link => .faulted n (s.slot n).incarnation (s.slot n).forced (s.orphanCount n) .link 0)

/-- A drained VACATING slot leaves VACATING: its map released, VACATED posted, then SEATING or EMPTY (R24, R88, R89, R151).
The drain limit expiring in VACATING drops the queued writes, orphans the writes in flight and ends VACATING so with the
forced flag (R24, R150). -/
def Obligations.VacatingEnds : Prop :=
  ∀ (s : State) (n : SlotId), (s.slot n).state = .vacating →
    ((s.slot n).ingress = [] → s.inFlight (.slot n) = 0 →
      ∃ t, exec (.vacatingEnd n) s = .next t ∧ t.now = s.now ∧
        t.slot n = Slot.vacated (s.slot n) s.now s.params.debounce ∧
        (∀ m, m ≠ n → t.slot m = s.slot m) ∧ t.trk = s.trk ∧ t.sb = s.sb ∧ mapReleased n s t ∧ keepsRest s t ∧
        ∃ r : Ring, r = { s.ring with stale := r.stale } ∧
          ringNoticed n (r.postEvent (.vacated n (s.slot n).incarnation (s.slot n).forced (s.orphanCount n)
            (s.slot n).seated)) t.ring) ∧
    ((∀ q ∈ (s.slot n).ingress, ∃ d, q.body = .write d) →
      ∃ u t, u = s.reach (s.slot n).timer.due ∧ exec (.vacatingDrainLimitExpiry n) s = .next t ∧ t.now = u.now ∧
        t.slot n = Slot.vacated
          { u.slot n with
            ingress := [], forced := true,
            counters := (s.slot n).counters.addDropped (s.slot n).ingress.length } u.now s.params.debounce ∧
        (∀ m, m ≠ n → t.slot m = u.slot m) ∧
        entriesBecome u t (fun e =>
          if e.who = .slot n ∧ e.incarnation = (s.slot n).incarnation ∧ e.kind = .write ∧
            (e.state = .issued ∨ e.state = .late) then { e with state := .orphan, held := .none }
          else e) ∧
        t.sb = u.sb ∧ mapReleased n u t ∧ keepsRest u t ∧
        ∃ r : Ring, r = { u.ring with stale := r.stale } ∧
          ringNoticed n (r.postEvent (.vacated n (s.slot n).incarnation true (t.orphanCount n)
            (s.slot n).seated)) t.ring)

/-! ## The slot link -/

/-- A link down in a traffic state posts LINK_LOST with the state left, whether a write was torn and the in-flight count.
With a grace above 0 the slot goes to GRACE: the state left recorded, the grace started, the places and the partly received
write gone (R16, R157). With a grace of 0 it goes to RETIRING with pending fault LINK under the link-down drain rules
(R165). In RETIRING a link down begins those rules and posts nothing of its own (R141, R142). A slot with no write left ends
its drain in the same step (R133, R144); that there the NO_BLADE answer of a running job stands before those of the queued
ones is the model's choice (log 20). -/
def Obligations.LinkDownEntersGrace : Prop :=
  ∀ (s : State) (n : SlotId), (s.slot n).linkEn = true → (s.slot n).linkUp = true →
    ((s.slot n).state ∈ [.settling, .live, .holding, .held] → s.params.grace ≠ 0 →
      ∃ t, exec (.linkDown n) s = .next t ∧ t.now = s.now ∧
        slotBecomesPosting n s t
          { s.slot n with
            state := .grace, resume := some (s.slot n).state, timer := .running s.now s.params.grace, linkUp := false,
            placesOpen := 0, partly := none, broken := false, heldBack := [], dataOut := [],
            counters := if (s.slot n).partly.isSome then (s.slot n).counters.addTorn else (s.slot n).counters }
          (.linkLost n (s.slot n).incarnation (s.slot n).state (s.slot n).partly.isSome (s.inFlight (.slot n)))) ∧
    ((s.slot n).state ∈ [.settling, .live, .holding, .held] → s.params.grace = 0 →
      ∃ q t, exec (.linkDown n) s = .next t ∧ t.now = s.now ∧
        q = s.ring.postEvent
          (.linkLost n (s.slot n).incarnation (s.slot n).state (s.slot n).partly.isSome (s.inFlight (.slot n))) ∧
        drainsLinkDown n { s with ring := q } t { (s.slot n).drainOfWrites with
          state := .retiring, resume := none, pendingFault := some .link, forced := false,
          timer := .running s.now (s.params.drainLimit * 1000) } ∧
        (s.writesLeft n → t.sb = s.sb ∧ ringNoticed n q t.ring)) ∧
    ((s.slot n).state = .retiring →
      ∃ t, exec (.linkDown n) s = .next t ∧ t.now = s.now ∧ drainsLinkDown n s t (s.slot n).drainOfWrites ∧
        (s.writesLeft n → t.sb = s.sb ∧ t.ring = s.ring))

/-- A link up advertises one place in PROBING. A GRACE slot returns to its resume state: its held answers are handed to the
link in list order, every free place is granted in translated intake and none in closed intake, the ramp step starts in full
for SETTLING and the hold limit for HOLDING, and LINK_RECOVERED carries how many answers were handed over and how many of
them were TIMEOUT. A slot that returns to HOLDING drained goes on to HELD, with HELD after LINK_RECOVERED (R17, R45, R123,
R160). -/
def Obligations.LinkUpProbesOrRecovers : Prop :=
  ∀ (s : State) (n : SlotId), (s.slot n).linkEn = true → (s.slot n).linkUp = false →
    ((s.slot n).state = .probing →
      ∃ t, exec (.linkUp n) s = .next t ∧ t.now = s.now ∧
        slotBecomes n s t { s.slot n with linkUp := true, placesOpen := 1 }) ∧
    (∀ back, (s.slot n).state = .grace → (s.slot n).resume = some back →
      ((back ∈ [.settling, .live] ∧ (s.slot n).intake = .translated) ∨
        (back ∈ [.holding, .held] ∧ (s.slot n).intake = .closed)) →
      ∃ u t, handsOverAll n (s.slot n).holdList s u ∧ exec (.linkUp n) s = .next t ∧ t.now = s.now ∧
        (let returned : Slot := { u.slot n with
          state := back, resume := none, linkUp := true, holdList := [],
          timer :=
            if back = .settling then .running s.now (s.params.rampStep * 10)
            else if back = .holding then .running s.now (s.params.holdLimit * 1000) else .stopped,
          placesOpen := if (s.slot n).intake = .translated then (s.slot n).freePlaces else (s.slot n).placesOpen }
        let recovered : Event := .linkRecovered n (s.slot n).incarnation back (s.slot n).holdList.length
          ((s.slot n).holdList.countP fun k => (s.entry k).held == .timeout)
        if back = .holding ∧ (s.slot n).ingress = [] ∧ u.inFlight (.slot n) = 0 then
          t.slot n = { returned with state := .held, timer := .stopped } ∧ keepsAllBut n u t ∧
          ∃ r r', ringNoticed n u.ring r ∧ ringNoticed n (r.postEvent recovered) r' ∧
            t.ring = r'.postEvent (.held n (s.slot n).incarnation)
        else slotBecomesPosting n u t returned recovered))

/-- A well-formed READ taken against a place in translated intake, with a tag not in use, that passes the five checks is
translated and queued, its tag in use (R68, R70, R71). A well-formed WRITE that ends there, begun by a frame start or
taken whole against a place, and that passes them, the page RW, is translated and queued with its masks and data; the
place that it held is the entry's, and every free place is granted (R63, R66, R70, R71). That a WRITE with no start is
start and end in one is the model's choice (log 14). -/
def Obligations.TranslatedFramesAreQueued : Prop :=
  ∀ (s : State) (n : SlotId), (s.slot n).linkEn = true → (s.slot n).linkUp = true → (s.slot n).intake = .translated →
    (∀ (f : ReadFrame) (e : MapEntry), (s.slot n).placesOpen ≠ 0 → (s.slot n).tags.get f.tag = false →
      headerFormed f.head → (s.slot n).withinPage f.head →
      findPage (s.slot n).map (bladePage f.head.addr) = some e →
      ∃ t, exec (.readFrame n f) s = .next t ∧ t.now = s.now ∧
        slotBecomes n s t { s.slot n with
          tags := (s.slot n).tags.set f.tag.val true f.tag.isLt,
          ingress := (s.slot n).ingress ++
            [⟨s.ext.base + BitVec.ofNat 40 (e.extent * 65536 + f.head.addr.toNat % 65536), f.head.beats, .read f.tag⟩],
          placesOpen := (s.slot n).freePlaces - 1 }) ∧
    (∀ (f : WriteFrame) (h : FrameHeader) (e : MapEntry), (s.slot n).endsFrame f h → writeFormed f h →
      (s.slot n).withinPage h → findPage (s.slot n).map (bladePage h.addr) = some e → e.rw = true →
      ∃ t, exec (.writeFrame n f) s = .next t ∧ t.now = s.now ∧
        slotBecomes n s t { s.slot n with
          partly := none,
          ingress := (s.slot n).ingress ++
            [⟨s.ext.base + BitVec.ofNat 40 (e.extent * 65536 + h.addr.toNat % 65536), h.beats, .write f.data⟩],
          placesOpen := 8 - ((s.slot n).ingress.length + 1) })

/-- A frame that fails one of the five checks of R70 is refused with the cause of the first that fails, in the order
OUT_OF_WINDOW, OVERSIZE, BOUNDARY, UNMAPPED, and for a WRITE READ_ONLY: a READ is answered with the status of that cause, a
WRITE discarded, either counted in VIOLATION and posted when it is the first, with no page for OUT_OF_WINDOW (R70, R72).
Under the fence a READ is answered RETIRED and a WRITE discarded, each counted in FENCED (R76). A malformed frame, a READ
whose tag is in use, and a frame that starts with no place open are discarded and counted in PROTOCOL with no answer (R61,
R65, R68). Every place freed is granted again (R63). That a WRITE with no start is start and end in one is the model's
choice (log 14). -/
def Obligations.RefusedFramesAreAnsweredAndCounted : Prop :=
  ∀ (s : State) (n : SlotId), (s.slot n).linkEn = true → (s.slot n).linkUp = true →
    (∀ (f : ReadFrame) (c : ViolationCause) (st : DataStatus),
      (c = .outOfWindow ∧ st = .unmapped) ∨ (c = .oversize ∧ st = .oversize) ∨ (c = .boundary ∧ st = .boundary) ∨
        (c = .unmapped ∧ st = .unmapped) →
      (s.slot n).intake = .translated → (s.slot n).placesOpen ≠ 0 → (s.slot n).tags.get f.tag = false →
      headerFormed f.head → (s.slot n).refuses .read f.head c →
      ∃ t, exec (.readFrame n f) s = .next t ∧ t.now = s.now ∧
        t.slot n = { s.slot n with
          dataOut := (s.slot n).dataOut ++ [⟨f.tag, st, []⟩], placesOpen := (s.slot n).freePlaces,
          counters := (s.slot n).counters.addViolation } ∧
        keepsAllBut n s t ∧ t.ring = violationPosted n s .read f.head c) ∧
    (∀ (f : WriteFrame) (h : FrameHeader) (c : ViolationCause), (s.slot n).intake = .translated →
      (s.slot n).endsFrame f h → writeFormed f h → (s.slot n).refuses .write h c →
      ∃ t, exec (.writeFrame n f) s = .next t ∧ t.now = s.now ∧
        t.slot n = { s.slot n with
          partly := none, placesOpen := 8 - (s.slot n).ingress.length,
          counters := (s.slot n).counters.addViolation } ∧
        keepsAllBut n s t ∧ t.ring = violationPosted n s .write h c) ∧
    (∀ f : ReadFrame, (s.slot n).intake = .fence → (s.slot n).placesOpen ≠ 0 → (s.slot n).tags.get f.tag = false →
      headerFormed f.head →
      ∃ t, exec (.readFrame n f) s = .next t ∧ t.now = s.now ∧
        slotBecomes n s t { s.slot n with
          dataOut := (s.slot n).dataOut ++ [⟨f.tag, .retired, []⟩], placesOpen := (s.slot n).freePlaces,
          counters := (s.slot n).counters.addFenced }) ∧
    (∀ (f : WriteFrame) (h : FrameHeader), (s.slot n).intake = .fence → (s.slot n).endsFrame f h → writeFormed f h →
      ∃ t, exec (.writeFrame n f) s = .next t ∧ t.now = s.now ∧
        slotBecomes n s t { s.slot n with
          partly := none, placesOpen := 8 - (s.slot n).ingress.length,
          counters := (s.slot n).counters.addFenced }) ∧
    (∀ f : ReadFrame, (s.slot n).intake ∈ [.translated, .fence] → (s.slot n).placesOpen ≠ 0 →
      (¬ headerFormed f.head ∨ (s.slot n).tags.get f.tag = true) →
      ∃ t, exec (.readFrame n f) s = .next t ∧ t.now = s.now ∧
        slotBecomes n s t { s.slot n with
          placesOpen := (s.slot n).freePlaces, counters := (s.slot n).counters.addProtocol }) ∧
    (∀ (f : WriteFrame) (h : FrameHeader), (s.slot n).intake ∈ [.translated, .fence] → (s.slot n).endsFrame f h →
      ¬ writeFormed f h →
      ∃ t, exec (.writeFrame n f) s = .next t ∧ t.now = s.now ∧
        slotBecomes n s t { s.slot n with
          partly := none, placesOpen := 8 - (s.slot n).ingress.length,
          counters := (s.slot n).counters.addProtocol }) ∧
    (∀ f : ReadFrame, (s.slot n).intake ∈ [.probe, .translated, .fence] → (s.slot n).placesOpen = 0 →
      ∃ t, exec (.readFrame n f) s = .next t ∧ t.now = s.now ∧
        slotBecomes n s t { s.slot n with counters := (s.slot n).counters.addProtocol }) ∧
    (∀ f : WriteFrame, (s.slot n).intake ∈ [.probe, .translated, .fence] →
      ((s.slot n).broken = true ∨
        ((s.slot n).broken = false ∧ (s.slot n).partly = none ∧ (s.slot n).placesOpen = 0)) →
      ∃ t, exec (.writeFrame n f) s = .next t ∧ t.now = s.now ∧
        slotBecomes n s t { s.slot n with broken := false, counters := (s.slot n).counters.addProtocol })

/-- A WRITE frame that starts while no other arrives uses an open place and is the partly received frame; one that starts
with no place open breaks the flow control and is marked as the frame to discard (R63, R65, R66). -/
def Obligations.FrameStartUsesAPlace : Prop :=
  ∀ (s : State) (n : SlotId) (h : FrameHeader), (s.slot n).linkEn = true → (s.slot n).linkUp = true →
    (s.slot n).intake ∈ [.probe, .translated, .fence] → (s.slot n).partly = none → (s.slot n).broken = false →
    ∃ t, exec (.frameStart n h) s = .next t ∧ t.now = s.now ∧
      slotBecomes n s t
        (if (s.slot n).placesOpen = 0 then { s.slot n with broken := true }
        else { s.slot n with placesOpen := (s.slot n).placesOpen - 1, partly := some h })

/-- A probe candidate that ends, begun by a frame start or taken whole against the place, is compared with all ones, all
zeros or the key by the progress reached: a match advances the probe or accepts the key, a difference ends it with the
lane mask or as a wrong key (R46 to R48). Any other frame that ends against the place is a glitch: counted, the place
advertised again, and at the glitch limit the probe ended (R46, R50). That a WRITE with no start is start and end in one
is the model's choice (log 14). -/
def Obligations.ProbeCandidatesAreCompared : Prop :=
  ∀ (s : State) (n : SlotId), (s.slot n).linkEn = true → (s.slot n).linkUp = true → (s.slot n).intake = .probe →
    (s.slot n).progress ≤ 2 → (s.slot n).outcome = none →
    (∀ (f : WriteFrame) (v : Beat), (s.slot n).endsFrame f ⟨0, 1⟩ → f.parsed = true → f.data = [⟨0xFF, v⟩] →
      ∃ t, exec (.writeFrame n f) s = .next t ∧ t.now = s.now ∧
        slotBecomes n s t
          (match (s.slot n).progress with
          | 0 =>
            if v = 0xFFFFFFFFFFFFFFFF then { s.slot n with partly := none, progress := 1, placesOpen := 1 }
            else { s.slot n with
              partly := none, laneMask := v ^^^ 0xFFFFFFFFFFFFFFFF, outcome := some .laneMismatch, placesOpen := 0 }
          | 1 =>
            if v = 0 then { s.slot n with partly := none, progress := 2, placesOpen := 1 }
            else { s.slot n with partly := none, laneMask := v, outcome := some .laneMismatch, placesOpen := 0 }
          | _ =>
            { s.slot n with
              partly := none, placesOpen := 0,
              outcome := some (if v =
                (s.slot n).identity[3] ++ (s.slot n).identity[4] ++ (s.slot n).identity[5] ++ (s.slot n).identity[6]
                then .keyAccepted else .wrongKey) })) ∧
    (∀ c : Instr,
      ((∃ f : ReadFrame, c = .readFrame n f ∧ (s.slot n).placesOpen ≠ 0 ∧ (s.slot n).partly = none) ∨
        (∃ (f : WriteFrame) (h : FrameHeader), c = .writeFrame n f ∧ (s.slot n).endsFrame f h ∧
          ¬ (f.parsed = true ∧ h.addr = 0 ∧ h.beats = 1 ∧ ∃ v, f.data = [⟨0xFF, v⟩]))) →
      ∃ t, exec c s = .next t ∧ t.now = s.now ∧
        slotBecomes n s t { s.slot n with
          counters := (s.slot n).counters.addGlitch, glitches := (s.slot n).glitches + 1, partly := none,
          placesOpen := if s.params.glitchLimit ≤ (s.slot n).glitches + 1 then 0 else 1,
          outcome := if s.params.glitchLimit ≤ (s.slot n).glitches + 1 then some .glitchLimit else none })

/-- The key accepted in PROBING opens translated intake with eight places at credit 1: SETTLING with the ramp step started,
or LIVE at once at the configured credit when that is 1 or the ramp step is 0 (R14, R55). -/
def Obligations.KeyAcceptedSettles : Prop :=
  ∀ (s : State) (n : SlotId), (s.slot n).state = .probing → (s.slot n).outcome = some .keyAccepted →
    (s.slot n).linkUp = true → (s.slot n).ingress = [] → (s.slot n).partly = none →
    ∃ t, exec (.keyAccepted n) s = .next t ∧ t.now = s.now ∧
      (if (s.slot n).cfgCredit = 1 ∨ s.params.rampStep = 0 then
        slotBecomesPosting n s t
          { s.slot n with
            state := .live, effCredit := (s.slot n).cfgCredit, intake := .translated, placesOpen := 8,
            outcome := none, timer := .stopped }
          (.live n (s.slot n).incarnation (s.slot n).cfgCredit)
      else
        slotBecomes n s t
          { s.slot n with
            state := .settling, effCredit := 1, intake := .translated, placesOpen := 8, outcome := none,
            timer := .running s.now (s.params.rampStep * 10) })

/-! ## The memory port and the control port -/

/-- A decision grants the first eligible participant in circle order after the pointer, each within its cap, SCRUB at its
pace and RING behind the status writes sent before (R110, R111, R113, R188). The grant takes that participant's head and
the lowest FREE entry: the entry ISSUED with the fields of R114 and its deadline, the request sent under that memory tag,
the pointer at the grantee. A slot's freed place is granted again (R74). A CONTROL request that no extent blocks attaches
the trailing fetch that its write triggers and hands back the FULL response entries whose owner bytes it covers with
EMPTY; a trailing fetch is a read of the attach record or of the ring entry, and its place goes to the next request held
back (R178, R179, R186). RING's head sends its kind's address, beats and data, a status unit with the values current at
the grant (R188, R189). SCRUB's head is write k of the pass, the fill pattern at the extent's base plus 256 k (R113,
R172). That a trailing fetch stands in its write's place and is not checked against the extents is read from the manual by
the model (log 29); that time passes until the decision, and the state `s` at the decision is the one reached then, is its
choice (log 5). -/
def Obligations.GrantTakesTheHead : Prop :=
  ∀ (before s : State) (elapsed : Nat) (k : MemTag) (p : Participant), s = before.reach (before.now + elapsed) →
    s.lowestFree k → s.grantsNext p →
    ∃ t, exec (.grant elapsed) before = .next t ∧ t.now = s.now ∧ t.sb = s.sb ∧ t.params = s.params ∧
      t.attachSel = s.attachSel ∧ t.drawn = s.drawn ∧ t.pending = s.pending ∧
      (∀ (n : SlotId) (q : IngressEntry) (rest : List IngressEntry), p = .slot n → (s.slot n).ingress = q :: rest →
        (match q.body with
        | .read tag => grants k s t p (s.slot n).incarnation .read (.blade tag) q.addr q.beats []
        | .write data => grants k s t p (s.slot n).incarnation .write .none q.addr q.beats data) ∧
        t.slot n = { s.slot n with
          ingress := rest,
          placesOpen :=
            if (s.slot n).linkUp = true ∧ ((s.slot n).intake = .translated ∨ (s.slot n).intake = .fence) then
              8 - rest.length - (s.slot n).partlyPlaces
            else (s.slot n).placesOpen } ∧
        (∀ m, m ≠ n → t.slot m = s.slot m) ∧ t.trk.lastScrub = s.trk.lastScrub ∧ t.ext = s.ext ∧
        t.scrub = s.scrub ∧ t.ring = s.ring ∧ t.ctl = s.ctl) ∧
      (∀ (r : ControlReq) (rest : List ControlItem), p = .control → s.ctl.queue = .request r :: rest →
        (s.ring.state = .attached → ∀ x ∈ touchedExtents s.ext.base s.ext.count r.addr r.beats,
          (s.extent x).state ∈ [.owned, .shared] ∨ ((s.extent x).state = .free ∧ r.kind = .read)) →
        grants k s t p 0 r.kind (.control r.tag) r.addr r.beats r.data ∧ t.slots = s.slots ∧
        t.trk.lastScrub = s.trk.lastScrub ∧ t.ext = s.ext ∧ t.scrub = s.scrub ∧
        (s.ring.state = .detached →
          (∀ i : Fin 8, coversWith r (s.attachSel.toNat * 4096 + i.val)
            (([0x52, 0x41, 0x53, 0x4A, 0x45, 0x54, 0x2D, 0x41] : List Byte)[i.val])) →
          t.ctl = { s.ctl with queue := .trailing .attachRecord :: rest }) ∧
        (s.ring.state = .attached → coversWith r (s.ring.reqBase.toNat + 32 * s.ring.consumer + 31) 1 →
          t.ctl = { s.ctl with queue := .trailing (.ringEntry s.ring.consumer) :: rest }) ∧
        ((s.ring.state = .detached ∧ ∃ i : Fin 8, ¬ coversWith r (s.attachSel.toNat * 4096 + i.val)
            (([0x52, 0x41, 0x53, 0x4A, 0x45, 0x54, 0x2D, 0x41] : List Byte)[i.val])) ∨
          (s.ring.state = .attached ∧ ¬ coversWith r (s.ring.reqBase.toNat + 32 * s.ring.consumer + 31) 1) ∨
          s.ring.state = .draining → s.ctl.heldBack = [] → t.ctl = { s.ctl with queue := rest }) ∧
        (s.ring.state = .detached → t.ring = s.ring) ∧
        (s.ring.state ≠ .detached → t.ring = { s.ring with mirror := t.ring.mirror, attn := t.ring.attn } ∧
          (∀ i : Fin 256, (i.val < s.ring.respSize ∧ coversWith r (s.ring.respBase.toNat + 32 * i.val + 31) 0 ∧
              s.ring.mirror.get i = .full → t.ring.mirror.get i = .empty) ∧
            (¬ (i.val < s.ring.respSize ∧ coversWith r (s.ring.respBase.toNat + 32 * i.val + 31) 0 ∧
              s.ring.mirror.get i = .full) → t.ring.mirror.get i = s.ring.mirror.get i)) ∧
          (s.ring.attn = s.ring.anyFull → t.ring.attn = t.ring.anyFull))) ∧
      (∀ (f : FetchTarget) (rest : List ControlItem), p = .control → s.ctl.queue = .trailing f :: rest →
        (match f with
        | .attachRecord =>
          grants k s t p 0 .read (.trailing f) (BitVec.ofNat 40 (s.attachSel.toNat * 4096)) 16 []
        | .ringEntry idx =>
          grants k s t p 0 .read (.trailing f) (s.ring.reqBase + BitVec.ofNat 40 (32 * idx)) 4 []) ∧
        (s.ctl.heldBack = [] → t.ctl = { s.ctl with queue := rest }) ∧
        (∀ (r : ControlReq) (rs : List ControlReq), s.ctl.heldBack = r :: rs → rest.length = 15 →
          1 ≤ r.beats → r.beats ≤ 32 → r.addr.toNat % 8 = 0 → r.addr.toNat + 8 * r.beats ≤ 2 ^ 40 →
          t.ctl = { s.ctl with queue := rest ++ [.request r], heldBack := rs }) ∧
        t.slots = s.slots ∧ t.trk.lastScrub = s.trk.lastScrub ∧ t.ext = s.ext ∧ t.scrub = s.scrub ∧
        t.ring = s.ring) ∧
      (∀ (op : RingOp) (rest : List RingOp), p = .ring → s.ring.queue = op :: rest →
        (match op with
        | .fetch idx =>
          grants k s t p 0 .read (.ring (.fetch idx)) (s.ring.reqBase + BitVec.ofNat 40 (32 * idx)) 4 []
        | .taken idx =>
          grants k s t p 0 .write (.ring .taken) (s.ring.reqBase + BitVec.ofNat 40 (32 * idx) + 24) 1
            [⟨0x80, 0x0200000000000000⟩]
        | .response idx rec =>
          grants k s t p 0 .write (.ring (.response idx rec.endsDraining))
            (s.ring.respBase + BitVec.ofNat 40 (32 * idx)) 4 (writeBeats rec.fields 4)
        | .status .header =>
          grants k s t p 0 .write (.ring (.status .header)) s.ring.statusBase 8
            (writeBeats (headerFields s.ext s.ring) 8)
        | .status (.slot n) =>
          grants k s t p 0 .write (.ring (.status (.slot n))) (s.ring.statusBase + BitVec.ofNat 40 (64 + 32 * n.val)) 4
            (writeBeats (s.slot n).statusFields 4)
        | .status (.extentMap j) =>
          grants k s t p 0 .write (.ring (.status (.extentMap j)))
            (s.ring.statusBase + BitVec.ofNat 40 (512 + 8 * j.val)) 1
            [⟨0xFF, BitVec.ofNat 64 (extentMapValue s.ext j.val)⟩]
        | .attachResult st field =>
          grants k s t p 0 .write (.ring .attachResult) (BitVec.ofNat 40 (s.attachSel.toNat * 4096 + 120)) 1
            [⟨0xFF, BitVec.ofNat 64 (st.code + 256 * field)⟩]) ∧
        (s.ring.waiting = [] → t.ring = { s.ring with queue := rest }) ∧ t.slots = s.slots ∧
        t.trk.lastScrub = s.trk.lastScrub ∧ t.ext = s.ext ∧ t.scrub = s.scrub ∧ t.ctl = s.ctl) ∧
      (∀ x, p = .scrub → s.scrub.current = some x →
        grants k s t p 0 .write (.scrub s.scrub.granted)
          (BitVec.ofNat 40 (s.ext.base.toNat + x * 65536 + 256 * s.scrub.granted)) 32
          (List.replicate 32 ⟨0xFF, s.ext.fill ++ s.ext.fill ++ s.ext.fill ++ s.ext.fill ++ s.ext.fill ++ s.ext.fill ++
            s.ext.fill ++ s.ext.fill⟩) ∧
        t.scrub = { s.scrub with granted := s.scrub.granted + 1 } ∧ t.trk.lastScrub = some t.now ∧
        t.slots = s.slots ∧ t.ext = s.ext ∧ t.ring = s.ring ∧ t.ctl = s.ctl)

/-- With no FREE entry no participant is eligible, and with none eligible the decision grants nothing: every queue keeps its
head, every entry and the pointer stay, and nothing else changes (R110 to R112). That time passes until the decision is the
model's choice (log 5). -/
def Obligations.NoGrantWithoutAFreeEntry : Prop :=
  ∀ (before s : State) (elapsed : Nat), s = before.reach (before.now + elapsed) →
    ((∀ k, (s.entry k).state ≠ .free) ∨ ∀ p, ¬ s.mayGo p) → exec (.grant elapsed) before = .next s

/-- A control request that touches an extent which does not pass is answered FILLED at its grant: no entry, nothing sent,
the pointer at CONTROL. A write is blocked by a FREE extent as by a DIRTY, SCRUBBING or BAD one and raises the discard
count; a read is blocked by the last three, answered with the fill pattern, and counted nowhere (R100 to R102, R114). That
time passes until the decision is the model's choice (log 5). -/
def Obligations.BlockedControlRequestsAreFilled : Prop :=
  ∀ (before s : State) (elapsed : Nat) (k : MemTag) (r : ControlReq) (rest : List ControlItem) (x : Nat),
    s = before.reach (before.now + elapsed) → s.lowestFree k → s.grantsNext .control →
    s.ctl.queue = .request r :: rest → s.ctl.heldBack = [] → s.ring.state = .attached →
    x ∈ touchedExtents s.ext.base s.ext.count r.addr r.beats →
    ((s.extent x).state ∈ [.dirty, .scrubbing, .bad] ∨ ((s.extent x).state = .free ∧ r.kind = .write)) →
    ∃ t, exec (.grant elapsed) before = .next t ∧ t.now = s.now ∧
      t.trk = { s.trk with pointer := .control } ∧ t.slots = s.slots ∧ t.sb = s.sb ∧ t.scrub = s.scrub ∧
      t.params = s.params ∧ t.attachSel = s.attachSel ∧ t.drawn = s.drawn ∧ t.pending = s.pending ∧
      t.ctl.queue = rest ∧ t.ctl.heldBack = [] ∧
      (match r.kind with
      | .write =>
        t.ctl.answers = s.ctl.answers ++ [⟨r.tag, .filled, []⟩] ∧
        t.ext = { s.ext with discards := satInc32 s.ext.discards } ∧ t.ring = s.ring.markStale .header
      | .read =>
        t.ctl.answers = s.ctl.answers ++
          [⟨r.tag, .filled, List.replicate r.beats
            (s.ext.fill ++ s.ext.fill ++ s.ext.fill ++ s.ext.fill ++ s.ext.fill ++ s.ext.fill ++ s.ext.fill ++
              s.ext.fill)⟩] ∧
        t.ext = s.ext ∧ t.ring = s.ring)

/-- The completion of an ISSUED slot read is delivered where the blade can receive and the incarnation is current, kept as
WAITING at the tail of the hold list in GRACE, and discarded with its entry freed in any other state; an ERROR counts in
MEMERR in each of the three (R78, R117). The completion of an ISSUED CONTROL request is answered under its control tag
(R119). A trailing fetch answers nothing there: a ring entry that qualifies, fetched so or by RING, becomes the held record,
and any other is dropped (R183); an attach record taken while DETACHED with its marker is answered BAD_FIELD with the first
field that fails, BUSY while the tracker holds an entry of R128, and OK otherwise, which attaches the part (R128, R181,
R182). Which request on the memory link ends is log 16, the order of an attach record's tests log 24: both read from the
manual by the model. -/
def Obligations.SlotReadCompletions : Prop :=
  ∀ (s : State) (k : MemTag), (s.entry k).state = .issued →
    (∀ (n : SlotId) (tag : BladeTag) (ok : Bool) (data : List Beat), (s.entry k).who = .slot n →
      (s.entry k).kind = .read → (s.entry k).tag = .blade tag →
      (let counted := if ok then (s.slot n).counters else (s.slot n).counters.addMemerr
      let receives := (s.slot n).state ∈ [.settling, .live, .holding, .held] ∨
        ((s.slot n).state = .retiring ∧ (s.slot n).linkEn = true)
      (receives → (s.entry k).incarnation = (s.slot n).incarnation →
        exec (.memoryCompletion k ok data) s = .next ((s.completed k).withSlot n { s.slot n with
          counters := counted,
          dataOut := (s.slot n).dataOut ++ [if ok then ⟨tag, .ok, data⟩ else ⟨tag, .memoryError, []⟩],
          tags := (s.slot n).tags.set tag.val false tag.isLt })) ∧
      ((s.slot n).state = .grace →
        exec (.memoryCompletion k ok data) s = .next (((s.heard k).setEntry k { s.entry k with
          state := .waiting, held := .completion ok (if ok then data else []) }).withSlot n { s.slot n with
            counters := counted, holdList := (s.slot n).holdList ++ [k] })) ∧
      (¬ (receives ∧ (s.entry k).incarnation = (s.slot n).incarnation) → (s.slot n).state ≠ .grace →
        exec (.memoryCompletion k ok data) s =
          .next ((s.completed k).withSlot n { s.slot n with counters := counted })))) ∧
    (∀ (tag : ControlTag) (ok : Bool) (data : List Beat), (s.entry k).who = .control →
      (s.entry k).tag = .control tag →
      exec (.memoryCompletion k ok data) s = .next { s.completed k with
        ctl := { s.ctl with
          answers := s.ctl.answers ++
            [if ok = false then ⟨tag, .memoryError, []⟩
            else if (s.entry k).kind = .read then ⟨tag, .ok, data⟩ else ⟨tag, .ok, []⟩] } }) ∧
    (∀ (idx : Nat) (ok : Bool) (data : List Beat),
      ((s.entry k).who = .control ∧ (s.entry k).tag = .trailing (.ringEntry idx)) ∨
        ((s.entry k).who = .ring ∧ (s.entry k).kind = .read ∧ (s.entry k).tag = .ring (.fetch idx)) →
      exec (.memoryCompletion k ok data) s = .next
        (if ok = true ∧ s.ring.state = .attached ∧ idx = s.ring.consumer ∧ ownerByte data = 1 ∧ s.ring.held = none then
          { s.completed k with ring := { s.ring with held := some (Request.parse data) } }
        else s.completed k)) ∧
    (∀ (ok : Bool) (data : List Beat), (s.entry k).who = .control → (s.entry k).tag = .trailing .attachRecord →
      (let a := AttachRecord.parse data
      let page := s.attachSel.toNat * 4096
      (ok = false ∨ s.ring.state ≠ .detached ∨ hasMarker data = false →
        exec (.memoryCompletion k ok data) s = .next (s.completed k)) ∧
      (ok = true → s.ring.state = .detached → hasMarker data = true → s.ring.queue.length ≤ 14 →
        s.ring.waiting = [] →
        (∀ f, firstFails (a.checks page) f →
          exec (.memoryCompletion k ok data) s = .next { s.completed k with
            ring := { s.ring with queue := s.ring.queue ++ [.attachResult .badField f] } }) ∧
        ((∀ c ∈ a.checks page, c.2) → (∃ j, j ≠ k ∧ (s.entry j).busyFor a) →
          exec (.memoryCompletion k ok data) s = .next { s.completed k with
            ring := { s.ring with queue := s.ring.queue ++ [.attachResult .busy 0] } }) ∧
        ((∀ c ∈ a.checks page, c.2) → (∀ j, j ≠ k → ¬ (s.entry j).busyFor a) → s.ring.pend = [] →
          s.ring.reserved = 0 →
          ∃ t, exec (.memoryCompletion k ok data) s = .next t ∧ attachesWith (s.completed k) t a))))

/-- A completion that names a FREE or a WAITING entry is a stray: it is discarded. The entry and everything else that the
part holds are unchanged, so it counts nowhere and posts nothing; of the requests out on the memory link, which are the
model's record of that link, nothing is said (R120). -/
def Obligations.StrayCompletionsAreDiscarded : Prop :=
  ∀ (s : State) (k : MemTag) (ok : Bool) (data : List Beat),
    ((s.entry k).state = .free ∨ (s.entry k).state = .waiting) →
    ∃ t, exec (.memoryCompletion k ok data) s = .next t ∧ t = { s with trk := { s.trk with link := t.trk.link } }

/-- A completion that finds a slot's entry LATE counts in LATE and frees it; with a kept TIMEOUT answer the entry becomes
WAITING instead and keeps that answer and its place in the hold list. An ERROR write of a slot counts in MEMERR and is
posted with the state its completion found, ISSUED, LATE (counted in LATE too), or ORPHAN while attached; an ERROR write
of RING is posted likewise (R118, R124, R126). The end of a response write, OK or not, turns its mirror to FULL, and after
the response to DETACH ends DRAINING (R186, R191). An acknowledgement of SCRUB is counted, an ERROR among the errors
(R173). Every other completion that finds LATE or ORPHAN frees the entry and does nothing more (R124, R126). Which request
on the memory link ends is read from the manual by the model (log 16). -/
def Obligations.LateAndFailedCompletions : Prop :=
  ∀ (s : State) (k : MemTag) (ok : Bool) (data : List Beat),
    (∀ n : SlotId, (s.entry k).who = .slot n → (s.entry k).state = .late →
      ((s.entry k).held = .timeout →
        exec (.memoryCompletion k ok data) s = .next (((s.heard k).setEntry k { s.entry k with
          state := .waiting }).withSlot n { s.slot n with counters := (s.slot n).counters.addLate })) ∧
      ((s.entry k).held ≠ .timeout → ¬ (ok = false ∧ (s.entry k).kind = .write) →
        exec (.memoryCompletion k ok data) s = .next
          ((s.completed k).withSlot n { s.slot n with counters := (s.slot n).counters.addLate })) ∧
      ((s.entry k).held ≠ .timeout → ok = false → (s.entry k).kind = .write →
        exec (.memoryCompletion k ok data) s = .next { (s.completed k).withSlot n { s.slot n with
          counters := (s.slot n).counters.addLate.addMemerr } with
            ring := s.ring.postEvent (s.entry k).writeError })) ∧
    (∀ n : SlotId, (s.entry k).who = .slot n → (s.entry k).kind = .write →
      ((s.entry k).state = .issued ∨ ((s.entry k).state = .orphan ∧ s.ring.state = .attached)) →
      exec (.memoryCompletion k ok data) s = .next
        (if ok then s.completed k
        else { (s.completed k).withSlot n { s.slot n with counters := (s.slot n).counters.addMemerr } with
          ring := s.ring.postEvent (s.entry k).writeError })) ∧
    ((s.entry k).who = .ring → (s.entry k).kind = .write → (s.entry k).incarnation = 0 →
      ((s.entry k).state ∈ [.issued, .late] ∨ ((s.entry k).state = .orphan ∧ s.ring.state = .attached)) →
      (let ring := if ok then s.ring else s.ring.postEvent (s.entry k).writeError
      (∀ (i : Fin 256) (last : Bool), (s.entry k).state = .issued → (s.entry k).tag = .ring (.response i.val last) →
        exec (.memoryCompletion k ok data) s = .next { s.completed k with ring := ring.responseEnded i last }) ∧
      ((s.entry k).state ≠ .issued ∨ (s.entry k).tag = .ring .taken ∨ (s.entry k).tag = .ring .attachResult ∨
          (∃ u, (s.entry k).tag = .ring (.status u)) →
        exec (.memoryCompletion k ok data) s = .next { s.completed k with ring := ring }))) ∧
    ((s.entry k).who = .scrub → (s.entry k).state = .issued →
      exec (.memoryCompletion k ok data) s = .next { s.completed k with
        scrub := { s.scrub with
          deferral := 0, acks := s.scrub.acks + 1,
          errors := if ok then s.scrub.errors else s.scrub.errors + 1 } }) ∧
    (((s.entry k).state = .late ∧ ((s.entry k).who ∈ [.control, .scrub] ∨
          ((s.entry k).who = .ring ∧ (ok = true ∨ (s.entry k).kind = .read)))) ∨
        ((s.entry k).state = .orphan ∧
          (ok = true ∨ (s.entry k).kind = .read ∨ s.ring.state ≠ .attached ∨ (s.entry k).who ∈ [.control, .scrub])) →
      exec (.memoryCompletion k ok data) s = .next (s.completed k))

/-- A deadline acts in ISSUED alone: the entry becomes LATE, and the requester is answered. A slot read is answered
TIMEOUT and its tag freed where the blade can receive, and the answer is kept at the tail of the hold list in GRACE; every
slot entry counts in TIMEOUT, a write and a read in any other state with no answer. CONTROL's tag is answered TIMEOUT, and
a trailing fetch is dropped with nothing answered. The end of a response write turns its mirror to FULL, and RING's other
requests end with nothing further. SCRUB's write is acknowledged with an error and a timeout counted (R121, R123, R173,
R178, R183, R186). That a read in any other state has no answer is read from the manual by the model (log 30); that the
moment of the deadline is reached through the time before it is its choice (log 5). -/
def Obligations.DeadlineAnswersTimeout : Prop :=
  ∀ (s : State) (k : MemTag),
    ((s.entry k).state ≠ .issued → exec (.completionTimeout k) s = .next s) ∧
    ((s.entry k).state = .issued →
      (let passed := s.reach (s.entry k).deadline
      let late := passed.setEntry k { s.entry k with state := .late }
      (∀ n : SlotId, (s.entry k).who = .slot n →
        (let receives := (passed.slot n).state ∈ [.settling, .live, .holding, .held] ∨
          ((passed.slot n).state = .retiring ∧ (passed.slot n).linkEn = true)
        (∀ tag : BladeTag, (s.entry k).kind = .read → (s.entry k).tag = .blade tag →
          (receives → exec (.completionTimeout k) s = .next (late.withSlot n { passed.slot n with
            dataOut := (passed.slot n).dataOut ++ [⟨tag, .timeout, []⟩],
            tags := (passed.slot n).tags.set tag.val false tag.isLt,
            counters := (passed.slot n).counters.addTimeout })) ∧
          ((passed.slot n).state = .grace → exec (.completionTimeout k) s = .next
            ((passed.setEntry k { s.entry k with state := .late, held := .timeout }).withSlot n { passed.slot n with
              counters := (passed.slot n).counters.addTimeout, holdList := (passed.slot n).holdList ++ [k] })) ∧
          (¬ receives → (passed.slot n).state ≠ .grace → exec (.completionTimeout k) s = .next
            (late.withSlot n { passed.slot n with counters := (passed.slot n).counters.addTimeout }))) ∧
        ((s.entry k).kind = .write → exec (.completionTimeout k) s = .next
          (late.withSlot n { passed.slot n with counters := (passed.slot n).counters.addTimeout })))) ∧
      ((s.entry k).who = .control →
        (∀ tag, (s.entry k).tag = .control tag → exec (.completionTimeout k) s = .next { late with
          ctl := { passed.ctl with answers := passed.ctl.answers ++ [⟨tag, .timeout, []⟩] } }) ∧
        (∀ f, (s.entry k).tag = .trailing f → exec (.completionTimeout k) s = .next late)) ∧
      ((s.entry k).who = .ring →
        (∀ (i : Fin 256) (last : Bool), (s.entry k).tag = .ring (.response i.val last) →
          exec (.completionTimeout k) s = .next { late with ring := passed.ring.responseEnded i last }) ∧
        ((s.entry k).tag = .ring .taken ∨ (s.entry k).tag = .ring .attachResult ∨
            (∃ u, (s.entry k).tag = .ring (.status u)) ∨ (∃ i, (s.entry k).tag = .ring (.fetch i)) →
          exec (.completionTimeout k) s = .next late)) ∧
      ((s.entry k).who = .scrub → exec (.completionTimeout k) s = .next { late with
        scrub := { passed.scrub with
          acks := passed.scrub.acks + 1, errors := passed.scrub.errors + 1, timeouts := passed.scrub.timeouts + 1 } })))

/-- A control request that the link does not hold back joins the queue while it has a place, and is answered MEMORY_ERROR
without one when its beats or address cannot be; behind a full queue it is held back (R178). That a malformed one is held
back there too, and is answered when it is taken, is read from the manual by the model (log 17). -/
def Obligations.ControlRequestsAreQueued : Prop :=
  ∀ (s : State) (r : ControlReq), s.ctl.heldBack = [] →
    exec (.controlRequest r) s = .next { s with
      ctl :=
        if 16 ≤ s.ctl.queue.length then { s.ctl with heldBack := [r] }
        else if 1 ≤ r.beats ∧ r.beats ≤ 32 ∧ r.addr.toNat % 8 = 0 ∧ r.addr.toNat + 8 * r.beats ≤ 2 ^ 40 then
          { s.ctl with queue := s.ctl.queue ++ [.request r] }
        else { s.ctl with answers := s.ctl.answers ++ [⟨r.tag, .memoryError, []⟩] } }

/-! ## The management line -/

/-- An acknowledgement counts in ACK_WAIT of the running job's line alone (R31). Before the timeout it takes a read on to
READ_DATA and a write to STOP; after it the access fails with TIMEOUT, its stop mark is sent, and nothing is answered yet.
On every other line, and in every other phase, it pulls SBDAT of its powered slot low and nothing else; an unpowered slot
has no line. The lines stand in the three conditions of R29: not driven without PWR_EN, SBCLK high and SBDAT released with
no access on the slot, and under an access the start mark and the command (direction, two 0 bits, register index), the
data of a write, SBCLK low in ACK_WAIT, and the stop mark, one bit every 2 µs (R29, R30). The times of the phases, of the
failure and of its stop mark, and SBCLK high in LINE_CHECK, are the model's reading (log 9). -/
def Obligations.AcknowledgementStopsTheTimeout : Prop :=
  ∀ (s : State) (n : SlotId),
    ((s.slot n).pwrEn = false →
      exec (.sidebandAcknowledgement n) s = .next s ∧ s.sbclk n = .notDriven ∧ s.sbdat n = .notDriven) ∧
    ((s.slot n).pwrEn = true →
      (∀ j, s.sb.running = some j → j.slot = n → s.sb.phase = .ackWait →
        ∃ t, exec (.sidebandAcknowledgement n) s = .next t ∧ t.now = s.now ∧
          t.slot n = { s.slot n with sbdatLow := true } ∧ (∀ m, m ≠ n → t.slot m = s.slot m) ∧
          t.sb = (if s.sb.expired = true ∨ s.sb.started + s.sb.timeout * 10 < s.now then
              { s.sb with phase := .stop, phaseEnds := s.now + 2, expired := false, failed := true }
            else if j.isWrite = true then { s.sb with phase := .stop, phaseEnds := s.now + 2 }
            else { s.sb with phase := .readData, phaseEnds := s.now + 32 }) ∧
          t.trk = s.trk ∧ t.ext = s.ext ∧ t.scrub = s.scrub ∧ t.ring = s.ring ∧ keepsRest s t) ∧
      (s.sb.phase ≠ .ackWait ∨ (∀ j, s.sb.running = some j → j.slot ≠ n) →
        ∃ t, exec (.sidebandAcknowledgement n) s = .next t ∧ t.now = s.now ∧
          slotBecomes n s t { s.slot n with sbdatLow := true }) ∧
      (s.sb.phase = .idle ∨ (∀ j, s.sb.running = some j → j.slot ≠ n) →
        s.sbclk n = .high ∧ s.sbdat n = .released (!(s.slot n).sbdatLow)) ∧
      (∀ j, s.sb.running = some j → j.slot = n →
        (s.sb.phase = .lineCheck → s.sbclk n = .high ∧ s.sbdat n = .released (!(s.slot n).sbdatLow)) ∧
        (∀ i : Fin 9, s.sb.phase = .command → s.sb.phaseEnds + 2 * i.val ≤ s.now + 18 →
          s.now + 18 < s.sb.phaseEnds + 2 * i.val + 2 →
          s.sbdat n = [.startMark, .bit j.isWrite, .bit false, .bit false, .bit (j.register.getLsbD 4),
            .bit (j.register.getLsbD 3), .bit (j.register.getLsbD 2), .bit (j.register.getLsbD 1),
            .bit (j.register.getLsbD 0)][i.val] ∧
          s.sbclk n = if i.val = 0 then .high else .clocked) ∧
        (∀ (i : Fin 16) (w : Bool) (reg : Byte) (d seq : Half), j = .request n w reg d seq →
          s.sb.phase = .writeData → s.sb.phaseEnds + 2 * i.val ≤ s.now + 32 →
          s.now + 32 < s.sb.phaseEnds + 2 * i.val + 2 →
          s.sbdat n = .bit (d.getLsbD (15 - i.val)) ∧ s.sbclk n = .clocked) ∧
        (s.sb.phase = .ackWait → s.sbclk n = .low ∧ s.sbdat n = .released (!(s.slot n).sbdatLow)) ∧
        (s.sb.phase = .readData → s.sbclk n = .clocked ∧ s.sbdat n = .released (!(s.slot n).sbdatLow)) ∧
        (s.sb.phase = .stop → s.sbclk n = .high ∧
          s.sbdat n = if s.now < s.sb.phaseEnds then .stopMark else .released (!(s.slot n).sbdatLow))))

/-- An access that passes STOP after its acknowledgement: a request job is answered OK with the register's value; an
identity job with fewer than eight words stores the value and reads the next register, with its timeout started anew; with
the eighth, words that pass the check take the slot from IDENTIFYING to PENDING with PRESENT, and words whose sum is not 0
or whose word 2 is not 1 to 16 fault it with IDENTITY_CHECK. An access whose stop mark follows a TIMEOUT ends there too:
its request is answered TIMEOUT with data 0, its identity job faults the slot with IDENTITY_TIMEOUT. At each job's end the
engine fills the free places from the waiting identity set and takes the next head (R30 to R35, R37). That the answer of a
failed access comes with the end of its stop mark is the model's reading (log 9); that the NO_BLADE answers of a faulted
slot's jobs stand in the order of log 20, and before FAULTED (log 40), are its choices. -/
def Obligations.AccessEndAnswersOrIdentifies : Prop :=
  ∀ (s : State) (data : Half) (high : Bool) (n : SlotId), (s.sb.phase = .readData ∨ s.sb.phase = .stop) →
    (let ends := max s.now (s.sb.phaseEnds + if s.sb.phase = .readData then 2 else 0)
    let line : Slot := { s.slot n with sbdatLow := !high }
    let ended : State := { s.withSlot n line with now := ends, sb := s.sb.jobEnded }
    (s.sb.failed = false →
      (∀ ws : List Half, s.sb.running = some (.identity n ws) → ws.length < 7 →
        ∃ t, exec (.sidebandAccessEnd data high) s = .next t ∧ t.now = ends ∧
          t.slot n = line ∧ (∀ m, m ≠ n → t.slot m = s.slot m) ∧
          t.sb = { s.sb with
            running := some (.identity n (ws ++ [data])), phase := if high then .command else .lineCheck,
            phaseEnds := t.now + 18, started := t.now, expired := false } ∧
          t.ring = s.ring ∧ t.trk = s.trk ∧ t.ext = s.ext ∧ t.scrub = s.scrub ∧ keepsRest s t) ∧
      (∀ w reg d seq, s.sb.running = some (.request n w reg d seq) →
        ∃ t, exec (.sidebandAccessEnd data high) s = .next t ∧ t.now = ends ∧
          t.slot n = line ∧ (∀ m, m ≠ n → t.slot m = s.slot m) ∧ t.sb = t.goesOn s.sb.jobEnded ∧
          t.ring = { s.ring with
            pend := s.ring.pend ++ [.response ⟨.ok, BitVec.ofNat 8 (n.val + 1), 10, seq,
              .sideband reg (if w then d else data)⟩],
            reserved := s.ring.reserved - 1 } ∧
          t.trk = s.trk ∧ t.ext = s.ext ∧ t.scrub = s.scrub ∧ keepsRest s t) ∧
      (∀ w0 w1 w2 w3 w4 w5 w6 : Half, s.sb.running = some (.identity n [w0, w1, w2, w3, w4, w5, w6]) →
        (s.slot n).state = .identifying →
        (w0 + w1 + w2 + w3 + w4 + w5 + w6 + data = 0 ∧ 1 ≤ w2.toNat ∧ w2.toNat ≤ 16 →
          ∃ t, exec (.sidebandAccessEnd data high) s = .next t ∧ t.now = ends ∧
            t.slot n = { line with
              state := .pending, timer := .stopped, identityOk := true,
              identity := #v[w0, w1, w2, w3, w4, w5, w6, data] } ∧
            (∀ m, m ≠ n → t.slot m = s.slot m) ∧ t.sb = t.goesOn s.sb.jobEnded ∧
            (∃ r, ringNoticed n s.ring r ∧
              t.ring = r.postEvent (.present n (s.slot n).incarnation #v[w0, w1, w2, w3, w4, w5, w6, data])) ∧
            t.trk = s.trk ∧ t.ext = s.ext ∧ t.scrub = s.scrub ∧ keepsRest s t) ∧
        (¬ (w0 + w1 + w2 + w3 + w4 + w5 + w6 + data = 0 ∧ 1 ≤ w2.toNat ∧ w2.toNat ≤ 16) →
          ∃ t, exec (.sidebandAccessEnd data high) s = .next t ∧ t.now = ends ∧
            shutsDown n ended t { line.faulted .identityCheck with identityOk := false }
              (.faulted n (s.slot n).incarnation (s.slot n).forced 0 .identityCheck 0)))) ∧
    (s.sb.failed = true → s.sb.phase = .stop →
      (∀ w reg d seq, s.sb.running = some (.request n w reg d seq) →
        ∃ t, exec (.sidebandAccessEnd data high) s = .next t ∧ t.now = ends ∧
          t.slot n = line ∧ (∀ m, m ≠ n → t.slot m = s.slot m) ∧ t.sb = t.goesOn s.sb.jobEnded ∧
          t.ring = { s.ring with
            pend := s.ring.pend ++ [.response ⟨.timeout, BitVec.ofNat 8 (n.val + 1), 10, seq, .sideband reg 0⟩],
            reserved := s.ring.reserved - 1 } ∧
          t.trk = s.trk ∧ t.ext = s.ext ∧ t.scrub = s.scrub ∧ keepsRest s t) ∧
      (∀ ws, s.sb.running = some (.identity n ws) → (s.slot n).state = .identifying →
        ∃ t, exec (.sidebandAccessEnd data high) s = .next t ∧ t.now = ends ∧
          shutsDown n ended t { line.faulted .identityTimeout with identityOk := false }
            (.faulted n (s.slot n).incarnation (s.slot n).forced 0 .identityTimeout 0))))

/-- The sideband timeout runs in LINE_CHECK to ACK_WAIT, and its expiry, at its moment, acts by the phase reached then: in
COMMAND and WRITE_DATA the access goes on with its timeout expired; in ACK_WAIT it fails and its stop mark is sent; in
LINE_CHECK it fails and its job ends at once: a request job is answered TIMEOUT with data 0, an identity job faults its
slot with IDENTITY_TIMEOUT, and the engine goes on. In any other phase, or when it has been taken already, an expiry does
nothing (R6, R28, R30 to R35, R37). Microsecond by microsecond the phases end in time: COMMAND after 18 µs in WRITE_DATA
or ACK_WAIT, WRITE_DATA after 32 in ACK_WAIT, READ_DATA after 32 in STOP; a timeout that has expired fails the access in
ACK_WAIT and LINE_CHECK; a failed access ends with its stop mark (R30, R31). That time passes so, and takes an expiry that
has come, is the model's choice (log 5); the stop mark of 2 µs with the job's end after it is its reading (log 9); whether
SBDAT has been released in LINE_CHECK is a free value (log 10); the order of a faulted slot's NO_BLADE answers (log 20),
and that they stand before FAULTED (log 40), are its choices. -/
def Obligations.SidebandTimeoutFailsTheAccess : Prop :=
  (∀ s : State, s.sb.phase ∈ [.idle, .readData, .stop] ∨ s.sb.expired = true →
    exec .sidebandTimeoutExpiry s = .next s) ∧
  (∀ s : State, s.sb.phase ∈ [.lineCheck, .command, .writeData, .ackWait] → s.sb.expired = false →
    ∃ u t, u = s.reach (s.sb.started + s.sb.timeout * 10) ∧ exec .sidebandTimeoutExpiry s = .next t ∧
      u.sb.phase ∈ [.lineCheck, .command, .writeData, .ackWait] ∧ u.sb.running = s.sb.running ∧
      (u.sb.phase = .command ∨ u.sb.phase = .writeData → t = { u with sb := { u.sb with expired := true } }) ∧
      (u.sb.phase = .ackWait → t = { u with
        sb := { u.sb with phase := .stop, phaseEnds := u.now + 2, expired := false, failed := true } }) ∧
      (u.sb.phase = .lineCheck →
        (∀ n w reg d seq, s.sb.running = some (.request n w reg d seq) → t = { u with
          sb := u.goesOn u.sb.jobEnded,
          ring := { u.ring with
            pend := u.ring.pend ++ [.response ⟨.timeout, BitVec.ofNat 8 (n.val + 1), 10, seq, .sideband reg 0⟩],
            reserved := u.ring.reserved - 1 } }) ∧
        (∀ n ws, s.sb.running = some (.identity n ws) → (u.slot n).state = .identifying → t.now = u.now ∧
          shutsDown n { u with sb := u.sb.jobEnded } t { (u.slot n).faulted .identityTimeout with identityOk := false }
            (.faulted n (u.slot n).incarnation (u.slot n).forced 0 .identityTimeout 0)))) ∧
  ∀ s : State,
    (let passed : State := { s with now := s.now + 1 }
    let due : Prop := s.sb.expired = true ∨ s.sb.started + s.sb.timeout * 10 ≤ s.now
    (s.sb.phase = .idle → s.reach (s.now + 1) = passed) ∧
    (∀ j, s.sb.running = some j → s.sb.phase = .command → s.reach (s.now + 1) =
      if s.sb.phaseEnds ≤ s.now + 1 then
        if j.isWrite = true then
          { passed with sb := { s.sb with phase := .writeData, phaseEnds := s.sb.phaseEnds + 32 } }
        else { passed with sb := { s.sb with phase := .ackWait } }
      else passed) ∧
    (s.sb.phase = .writeData → s.reach (s.now + 1) =
      if s.sb.phaseEnds ≤ s.now + 1 then { passed with sb := { s.sb with phase := .ackWait } } else passed) ∧
    (s.sb.phase = .readData → s.sb.failed = false → s.reach (s.now + 1) =
      if s.sb.phaseEnds ≤ s.now + 1 then
        { passed with sb := { s.sb with phase := .stop, phaseEnds := s.sb.phaseEnds + 2 } }
      else passed) ∧
    (s.sb.phase = .ackWait → (due → s.reach (s.now + 1) = { passed with
        sb := { s.sb with phase := .stop, phaseEnds := s.now + 2, expired := false, failed := true } }) ∧
      (¬ due → s.reach (s.now + 1) = passed)) ∧
    (∀ j, s.sb.running = some j → s.sb.phase = .lineCheck → ¬ due → s.reach (s.now + 1) =
      if Config.sbdatReleased s.drawn then
        { passed.withSlot j.slot { s.slot j.slot with sbdatLow := false } with
          drawn := s.drawn + 1, sb := { s.sb with phase := .command, phaseEnds := s.now + 19 } }
      else { passed with drawn := s.drawn + 1 }) ∧
    (s.sb.phase = .lineCheck → due → s.sb.timeout ≠ 0 →
      (∀ n w reg d seq, s.sb.running = some (.request n w reg d seq) → s.reach (s.now + 1) =
        ({ s with
          sb := s.goesOn s.sb.jobEnded,
          ring := { s.ring with
            pend := s.ring.pend ++ [.response ⟨.timeout, BitVec.ofNat 8 (n.val + 1), 10, seq, .sideband reg 0⟩],
            reserved := s.ring.reserved - 1 } } : State).reach (s.now + 1)) ∧
      (∀ n ws, s.sb.running = some (.identity n ws) → (s.slot n).state = .identifying →
        ∃ v, s.reach (s.now + 1) = v.reach (s.now + 1) ∧ v.now = s.now ∧
          shutsDown n { s with sb := s.sb.jobEnded } v { (s.slot n).faulted .identityTimeout with identityOk := false }
            (.faulted n (s.slot n).incarnation (s.slot n).forced 0 .identityTimeout 0))) ∧
    (s.sb.phase = .stop → (s.sb.failed = false ∨ s.now + 1 < s.sb.phaseEnds → s.reach (s.now + 1) = passed) ∧
      (s.sb.failed = true → s.sb.phaseEnds ≤ s.now + 1 →
        (∀ n w reg d seq, s.sb.running = some (.request n w reg d seq) → s.reach (s.now + 1) = { passed with
          sb := passed.goesOn s.sb.jobEnded,
          ring := { s.ring with
            pend := s.ring.pend ++ [.response ⟨.timeout, BitVec.ofNat 8 (n.val + 1), 10, seq, .sideband reg 0⟩],
            reserved := s.ring.reserved - 1 } }) ∧
        (∀ n ws, s.sb.running = some (.identity n ws) → (s.slot n).state = .identifying →
          (s.reach (s.now + 1)).now = s.now + 1 ∧
          shutsDown n { passed with sb := s.sb.jobEnded } (s.reach (s.now + 1))
            { (s.slot n).faulted .identityTimeout with identityOk := false }
            (.faulted n (s.slot n).incarnation (s.slot n).forced 0 .identityTimeout 0)))))

/-! ## The requests -/

/-- The held record is taken when no request is in execution, a place can be reserved and two places of the ring request
queue are free: a place reserved, TAKEN and the read-ahead queued, the consumer index advanced; a kind that is none of the
twelve is answered BAD_REQUEST, and a slot-naming kind outside 1 to 14 BAD_SLOT (R184). -/
def Obligations.RequestIsTaken : Prop :=
  ∀ (s : State) (q : Request), s.ring.state = .attached → s.ring.held = some q → s.ring.exec = none →
    s.ring.pend.length + s.ring.reserved < 32 → s.ring.waiting = [] → s.ring.queue.length ≤ 14 →
    exec .requestTake s = .next
      (let taken : State := { s with
        ring := { s.ring with
          reserved := s.ring.reserved + 1,
          queue := s.ring.queue ++
            [.taken s.ring.consumer, .fetch ((s.ring.consumer + 1) % s.ring.reqSize)],
          consumer := (s.ring.consumer + 1) % s.ring.reqSize, held := none, exec := some q } }
      if q.kind.toNat = 0 ∨ 12 < q.kind.toNat then
        taken.answeredWith ⟨.badRequest, q.slot, q.kind, q.seq, .nothing⟩
      else if q.kind.toNat ∈ [1, 2, 3, 4, 5, 6, 7, 10, 11] ∧ (q.slot.toNat = 0 ∨ 14 < q.slot.toNat) then
        taken.answeredWith ⟨.badSlot, q.slot, q.kind, q.seq, .nothing⟩
      else taken)

/-- A request refused for its slot's state is answered BAD_STATE, SIDEBAND NO_BLADE, and changes nothing (R12, R36). That
this NO_BLADE carries data 0 is read from the manual by the model (log 34). -/
def Obligations.RequestsAreRefusedByState : Prop :=
  ∀ (s : State) (r : Request) (n : SlotId), r.names n →
    (s.executing r 1 → (s.slot n).state ≠ .pending →
      exec .admission s = .next (s.answeredWith ⟨.badState, r.slot, r.kind, r.seq, .nothing⟩)) ∧
    (s.executing r 2 → (s.slot n).state = .vacating →
      exec .stage s = .next (s.answeredWith ⟨.badState, r.slot, r.kind, r.seq, .nothing⟩)) ∧
    (s.executing r 3 → (s.slot n).state ≠ .pending → (s.slot n).state ≠ .held →
      exec .commit s = .next (s.answeredWith ⟨.badState, r.slot, r.kind, r.seq, .nothing⟩)) ∧
    (s.executing r 4 → (s.slot n).state ≠ .live →
      exec .hold s = .next (s.answeredWith ⟨.badState, r.slot, r.kind, r.seq, .nothing⟩)) ∧
    (s.executing r 5 → (s.slot n).state ≠ .held →
      exec .resume s = .next (s.answeredWith ⟨.badState, r.slot, r.kind, r.seq, .nothing⟩)) ∧
    (s.executing r 6 → (s.slot n).state ∈ [.empty, .seating, .retiring, .retired, .faulted, .vacating] →
      exec .retire s = .next (s.answeredWith ⟨.badState, r.slot, r.kind, r.seq, .nothing⟩)) ∧
    (s.executing r 7 → (s.slot n).state ≠ .retired → (s.slot n).state ≠ .faulted →
      exec .restart s = .next (s.answeredWith ⟨.badState, r.slot, r.kind, r.seq, .nothing⟩)) ∧
    (s.executing r 10 → (s.slot n).state ∈ [.empty, .seating, .powering, .retired, .faulted, .vacating] ∨
        ((s.slot n).state = .retiring ∧ (s.slot n).pwrEn = false) → s.executing r 10 →
      exec .sideband s = .next (s.answeredWith ⟨.noBlade, r.slot, r.kind, r.seq, .sideband r.p5 0⟩))

/-- An ADMIT of a PENDING slot with a credit of 1 to 16 not above identity word 2 and maximum beats of 1 to 32 advances the
incarnation, sets the credit and the maximum beats, clears the probe's values, sets the link for the probe and asserts
LINK_EN; the first check to fail names its field instead (R13, R42, R44). -/
def Obligations.AdmitOpensTheProbe : Prop :=
  ∀ (s : State) (r : Request) (n : SlotId), s.executing r 1 → r.names n → (s.slot n).state = .pending →
    (r.p4.toNat = 0 ∨ 16 < r.p4.toNat →
      exec .admission s = .next (s.answeredWith ⟨.badField, r.slot, r.kind, r.seq, .field 1⟩)) ∧
    (1 ≤ r.p4.toNat → r.p4.toNat ≤ 16 → (r.p5.toNat = 0 ∨ 32 < r.p5.toNat) →
      exec .admission s = .next (s.answeredWith ⟨.badField, r.slot, r.kind, r.seq, .field 2⟩)) ∧
    (1 ≤ r.p4.toNat → r.p4.toNat ≤ 16 → 1 ≤ r.p5.toNat → r.p5.toNat ≤ 32 →
      (s.slot n).identity[2].toNat < r.p4.toNat →
      exec .admission s = .next (s.answeredWith ⟨.badField, r.slot, r.kind, r.seq, .field 3⟩)) ∧
    (1 ≤ r.p4.toNat → r.p4.toNat ≤ 16 → 1 ≤ r.p5.toNat → r.p5.toNat ≤ 32 →
      r.p4.toNat ≤ (s.slot n).identity[2].toNat →
      ∃ t, exec .admission s = .next t ∧ t.now = s.now ∧
        t.slot n = { s.slot n with
          state := .probing, cfgCredit := r.p4.toNat, maxBeats := r.p5.toNat,
          incarnation := (s.slot n).incarnation + 1, laneMask := 0, glitches := 0, progress := 0, intake := .probe,
          linkUp := false, placesOpen := 0, ingress := [], tags := Vector.replicate 16 false, partly := none,
          broken := false, outcome := none, heldBack := [], dataOut := [], linkEn := true,
          timer := .running s.now (s.params.probeLimit * 1000) } ∧
        keepsAllBut n s t ∧
        ringAnswered s.ring t.ring
          ⟨.accepted, r.slot, r.kind, r.seq, .incarnation ((s.slot n).incarnation + 1)⟩)

/-- A STAGE in any state but VACATING checks index, operation, page and access in order; a set writes the entry and a clear
empties it, the OK response counts the entries, and nothing else changes (R90). -/
def Obligations.StageWritesOneEntry : Prop :=
  ∀ (s : State) (r : Request) (n : SlotId), s.executing r 2 → r.names n → (s.slot n).state ≠ .vacating →
    (32 ≤ r.p4.toNat → exec .stage s = .next (s.answeredWith ⟨.badField, r.slot, r.kind, r.seq, .field 1⟩)) ∧
    (r.p4.toNat < 32 → r.p5.toNat ≠ 1 → r.p5.toNat ≠ 2 →
      exec .stage s = .next (s.answeredWith ⟨.badField, r.slot, r.kind, r.seq, .field 2⟩)) ∧
    (r.p4.toNat < 32 → r.p5.toNat = 1 → 32 ≤ r.p6.toNat →
      exec .stage s = .next (s.answeredWith ⟨.badField, r.slot, r.kind, r.seq, .field 3⟩)) ∧
    (r.p4.toNat < 32 → r.p5.toNat = 1 → r.p6.toNat < 32 → r.p7.toNat ≠ 1 → r.p7.toNat ≠ 2 →
      exec .stage s = .next (s.answeredWith ⟨.badField, r.slot, r.kind, r.seq, .field 4⟩)) ∧
    (∀ e : Option MapEntry, r.p4.toNat < 32 →
      ((r.p5.toNat = 2 ∧ e = none) ∨
        (r.p5.toNat = 1 ∧ ∃ h : r.p6.toNat < 32, (r.p7.toNat = 1 ∨ r.p7.toNat = 2) ∧
          e = some ⟨⟨r.p6.toNat, h⟩, r.p8.toNat + 256 * r.p9.toNat, decide (r.p7.toNat = 2)⟩)) →
      ∃ t, exec .stage s = .next t ∧ t.now = s.now ∧ keepsAllBut n s t ∧
        t.slot n = { s.slot n with staging := (s.slot n).staging.setIfInBounds r.p4.toNat e } ∧
        ringAnswered s.ring t.ring
          ⟨.ok, r.slot, r.kind, r.seq, .staged (mapEntries (t.slot n).staging).length⟩)

/-- A COMMIT in PENDING or HELD examines the staging entries in ascending index order and each by its four checks in
order: the extent number, the page and the extent named at a lower index, the extent's state, owner, withdrawn flag and
the access. The first to fail is answered with its index and check, check d with EXTENT_STATE and the state found, and
nothing changes (R92 to R94). A set that passes is installed: the map becomes the staging set, and the set is emptied; a
FREE extent named becomes OWNED by the slot, a SHARED one gains 1 in its count unless the old map names it, an OWNED one
is left. An extent that the old map alone names is released: OWNED by the slot it becomes DIRTY; SHARED it loses 1 of its
count for each entry that named it, and becomes DIRTY when withdrawn and at 0. Those that become DIRTY join the tail of
the scrub queue in the order of the old map's entries (R85). An extent named by neither is left, and the response counts
entries and released extents (R88, R95, R99). -/
def Obligations.CommitInstallsTheStagingSet : Prop :=
  ∀ (s : State) (r : Request) (n : SlotId), s.executing r 3 → r.names n →
    ((s.slot n).state = .pending ∨ (s.slot n).state = .held) →
    (∀ i c, c ≠ 4 → s.commitFailsFirst n i c →
      exec .commit s = .next (s.answeredWith ⟨.badField, r.slot, r.kind, r.seq, .commitFailed i c none⟩)) ∧
    (∀ i e, (s.slot n).staging[i]? = some (some e) → s.commitFailsFirst n i 4 →
      exec .commit s = .next (s.answeredWith
        ⟨.extentState, r.slot, r.kind, r.seq, .commitFailed i 4 (some (s.extent e.extent).state)⟩)) ∧
    ((∀ i c, ¬ s.commitFails n i c) →
      ∃ t, exec .commit s = .next t ∧ t.now = s.now ∧
        t.slot n = { s.slot n with map := (s.slot n).staging, staging := Vector.replicate 32 none } ∧
        (∀ m, m ≠ n → t.slot m = s.slot m) ∧ t.trk = s.trk ∧ t.sb = s.sb ∧ keepsRest s t ∧
        ringAnswered s.ring t.ring ⟨.ok, r.slot, r.kind, r.seq,
          .committed (mapEntries (s.slot n).staging).length
            ((mapEntries (s.slot n).map).countP fun o =>
              !((mapEntries (s.slot n).staging).any fun e => e.extent == o.extent))⟩ ∧
        dirtiedJoin (((mapEntries (s.slot n).map).map MapEntry.extent).filter fun x =>
          namedIn (s.slot n).staging x == 0) s t ∧
        ∀ x, x < 2048 →
          (0 < namedIn (s.slot n).staging x →
            ((s.extent x).state = .free → t.extent x = ⟨.owned, some n, 0, false⟩) ∧
            ((s.extent x).state = .owned → t.extent x = s.extent x) ∧
            ((s.extent x).state = .shared → t.extent x =
              if 0 < namedIn (s.slot n).map x then s.extent x
              else { s.extent x with refs := (s.extent x).refs + 1 })) ∧
          (namedIn (s.slot n).staging x = 0 → namedIn (s.slot n).map x = 0 → t.extent x = s.extent x) ∧
          (namedIn (s.slot n).staging x = 0 → 0 < namedIn (s.slot n).map x →
            ((s.extent x).state = .owned → (s.extent x).owner = some n → t.extent x = ⟨.dirty, none, 0, false⟩) ∧
            ((s.extent x).state = .shared → t.extent x =
              if (s.extent x).withdrawn = true ∧ (s.extent x).refs ≤ namedIn (s.slot n).map x then
                ⟨.dirty, none, 0, false⟩
              else { s.extent x with refs := (s.extent x).refs - namedIn (s.slot n).map x })))

/-- A HOLD of a LIVE slot closes its intake and is answered ACCEPTED: HOLDING with the hold limit while something of it is
queued, HELD with its event after the response when the slot is drained (R15, R135). -/
def Obligations.HoldClosesIntake : Prop :=
  ∀ (s : State) (r : Request) (n : SlotId), s.executing r 4 → r.names n → (s.slot n).state = .live →
    ((s.slot n).ingress ≠ [] ∨ s.inFlight (.slot n) ≠ 0 →
      ∃ t, exec .hold s = .next t ∧ t.now = s.now ∧
        t.slot n = { s.slot n with
          state := .holding, intake := .closed, timer := .running s.now (s.params.holdLimit * 1000) } ∧
        keepsAllBut n s t ∧
        ringAnswered s.ring t.ring
          ⟨.accepted, r.slot, r.kind, r.seq, .incarnation (s.slot n).incarnation⟩) ∧
    ((s.slot n).ingress = [] → s.inFlight (.slot n) = 0 →
      ∃ t, exec .hold s = .next t ∧ t.now = s.now ∧
        t.slot n = { s.slot n with state := .held, intake := .closed, timer := .stopped } ∧ keepsAllBut n s t ∧
        ∃ q, ringAnswered s.ring q ⟨.accepted, r.slot, r.kind, r.seq, .incarnation (s.slot n).incarnation⟩ ∧
          t.ring = q.postEvent (.held n (s.slot n).incarnation))

/-- A RESUME of a HELD slot returns it to LIVE with every free place granted; what the link held back then arrives as if
sent in LIVE, and after it the response OK is handed over (R15, R64, R65, R138). That it comes after those frames is read
from the manual by the model (log 28). -/
def Obligations.ResumeReopensIntake : Prop :=
  ∀ (s : State) (r : Request) (n : SlotId), s.executing r 5 → r.names n → (s.slot n).state = .held →
    (s.slot n).linkUp = true →
    ((s.slot n).heldBack = [] →
      ∃ t, exec .resume s = .next t ∧ t.now = s.now ∧
        t.slot n = { s.slot n with
          state := .live, intake := .translated, placesOpen := (s.slot n).freePlaces } ∧
        keepsAllBut n s t ∧ ringAnswered s.ring t.ring ⟨.ok, r.slot, r.kind, r.seq, .nothing⟩) ∧
    ((s.slot n).linkEn = true →
      ∃ u v, exec .resume s = .next (v.answeredWith ⟨.ok, r.slot, r.kind, r.seq, .nothing⟩) ∧ u.now = s.now ∧
        slotBecomes n s u { s.slot n with
          state := .live, intake := .translated, placesOpen := (s.slot n).freePlaces, heldBack := [] } ∧
        heldBackArrives n (s.slot n).heldBack u v)

/-- A RETIRE is answered ACCEPTED before anything it posts (R139). Before traffic the slot is RETIRED at once. In a traffic
state with a request queued or in flight it goes to RETIRING under the fence, with every free place granted, and what the
link held back then arrives under the fence; a traffic state drained at the RETIRE is RETIRED in the same step; a slot in
GRACE drains under the link-down rules with no pending fault (R20, R77, R133, R164). The model's choices: ACCEPTED stands
before the NO_BLADE answers of the jobs that the same step cancels, and these, before traffic, stand before RETIRED (log
38); of these the running job's stands before those of the queued ones (log 20). -/
def Obligations.RetireEndsOrFences : Prop :=
  ∀ (s : State) (r : Request) (n : SlotId), s.executing r 6 → r.names n →
    (let accepted := s.answeredWith ⟨.accepted, r.slot, r.kind, r.seq, .incarnation (s.slot n).incarnation⟩
    ((s.slot n).state ∈ [.powering, .identifying, .pending, .probing] →
      ∃ t, exec .retire s = .next t ∧ t.now = s.now ∧
        shutsDown n accepted t (s.slot n).retired (.retired n (s.slot n).incarnation false 0)) ∧
    ((s.slot n).state ∈ [.settling, .live, .holding, .held] →
      ((s.slot n).ingress ≠ [] ∨ s.inFlight (.slot n) ≠ 0) → (s.slot n).linkEn = true → (s.slot n).linkUp = true →
      ∃ u t, exec .retire s = .next t ∧ u.now = s.now ∧
        slotBecomes n accepted u { s.slot n with
          state := .retiring, resume := none, forced := false, pendingFault := none, intake := .fence,
          placesOpen := (s.slot n).freePlaces, heldBack := [],
          timer := .running s.now (s.params.drainLimit * 1000) } ∧
        heldBackArrives n (s.slot n).heldBack u t) ∧
    ((s.slot n).state ∈ [.settling, .live, .holding, .held] → (s.slot n).ingress = [] →
      s.inFlight (.slot n) = 0 →
      ∃ t, exec .retire s = .next t ∧ t.now = s.now ∧
        shutsDown n accepted t { (s.slot n).retired with resume := none, forced := false }
          (.retired n (s.slot n).incarnation false (s.orphanCount n))) ∧
    ((s.slot n).state = .grace →
      ∃ t, exec .retire s = .next t ∧ t.now = s.now ∧
        drainsLinkDown n accepted t { (s.slot n).drainOfWrites with
          counters := if (s.slot n).partly.isSome then (s.slot n).counters.addTorn else (s.slot n).counters,
          state := .retiring, resume := none, forced := false, pendingFault := none,
          timer := .running s.now (s.params.drainLimit * 1000) } ∧
        (s.writesLeft n → t.sb = s.sb ∧ ringNoticed n accepted.ring t.ring)))

/-- A RESTART of a RETIRED or FAULTED slot powers it: POWERING, the fault cause, the identity valid flag and the forced flag
cleared, the power limit started, answered ACCEPTED; with PWR_GOOD up already the slot goes on to IDENTIFYING in the same
step, and its identity job is handed over (R10, R22, R33, R146). -/
def Obligations.RestartPowers : Prop :=
  ∀ (s : State) (r : Request) (n : SlotId), s.executing r 7 → r.names n →
    ((s.slot n).state = .retired ∨ (s.slot n).state = .faulted) →
    ((s.slot n).pwrGood = false →
      ∃ t, exec .restart s = .next t ∧ t.now = s.now ∧
        t.slot n = { s.slot n with
          state := .powering, fault := none, identityOk := false, forced := false, pwrEn := true, removeOk := false,
          timer := .running s.now (s.params.powerLimit * 1000) } ∧
        keepsAllBut n s t ∧
        ringAnswered s.ring t.ring ⟨.accepted, r.slot, r.kind, r.seq, .incarnation (s.slot n).incarnation⟩) ∧
    ((s.slot n).pwrGood = true →
      ∃ t, exec .restart s = .next t ∧
        identifies n s t { s.slot n with
          state := .identifying, fault := none, identityOk := false, forced := false, pwrEn := true, removeOk := false,
          timer := .stopped } ∧
        ringAnswered s.ring t.ring ⟨.accepted, r.slot, r.kind, r.seq, .incarnation (s.slot n).incarnation⟩)

/-- PUBLISH makes a FREE extent SHARED at count 0, and WITHDRAW makes a SHARED extent DIRTY at count 0 and sets its
withdrawn flag above 0; a number at or above the extent count is refused with BAD_FIELD 1, any other state with
EXTENT_STATE and the state found. The slot byte of the responses is 0 (log 22). No map changes (R97, R98). -/
def Obligations.PublishAndWithdraw : Prop :=
  ∀ (s : State) (r : Request) (x : Half), x.toNat = r.p4.toNat + 256 * r.p5.toNat → s.ext.count ≤ 2048 →
    (∀ k, (k = 8 ∨ k = 9) → s.executing r k → s.ext.count ≤ x.toNat →
      exec (if k = 8 then .publish else .withdraw) s =
        .next (s.answeredWith ⟨.badField, 0, r.kind, r.seq, .extent x 1 none 0⟩)) ∧
    (s.executing r 8 → x.toNat < s.ext.count → (s.extent x.toNat).state ≠ .free →
      exec .publish s = .next (s.answeredWith
        ⟨.extentState, 0, r.kind, r.seq, .extent x 0 (some (s.extent x.toNat).state) 0⟩)) ∧
    (s.executing r 8 → x.toNat < s.ext.count → (s.extent x.toNat).state = .free →
      ∃ t, exec .publish s = .next t ∧ t.now = s.now ∧ t.extent x.toNat = ⟨.shared, none, 0, false⟩ ∧
        (∀ y, y ≠ x.toNat → t.extent y = s.extent y) ∧ t.ext.queue = s.ext.queue ∧ t.slots = s.slots ∧
        t.sb = s.sb ∧ t.trk = s.trk ∧ t.scrub = s.scrub ∧ keepsRest s t ∧
        ringAnswered s.ring t.ring ⟨.ok, 0, r.kind, r.seq, .extent x 0 none 0⟩) ∧
    (s.executing r 9 → x.toNat < s.ext.count →
      ((s.extent x.toNat).state ≠ .shared ∨ (s.extent x.toNat).withdrawn = true) →
      exec .withdraw s = .next (s.answeredWith
        ⟨.extentState, 0, r.kind, r.seq, .extent x 0 (some (s.extent x.toNat).state) 0⟩)) ∧
    (s.executing r 9 → x.toNat < s.ext.count → (s.extent x.toNat).state = .shared →
      (s.extent x.toNat).withdrawn = false →
      ∃ t, exec .withdraw s = .next t ∧ t.now = s.now ∧ (∀ y, y ≠ x.toNat → t.extent y = s.extent y) ∧
        t.slots = s.slots ∧ t.sb = s.sb ∧ t.trk = s.trk ∧ keepsRest s t ∧
        (if (s.extent x.toNat).refs = 0 then
          t.extent x.toNat = ⟨.dirty, none, 0, false⟩ ∧ t.ext.queue = s.ext.queue ++ [x.toNat] ∧
          t.scrub = { s.scrub with deferral := 0 } ∧
          ringAnswered s.ring t.ring ⟨.ok, 0, r.kind, r.seq, .extent x 0 (some .dirty) 0⟩
        else
          t.extent x.toNat = { s.extent x.toNat with withdrawn := true } ∧ t.ext.queue = s.ext.queue ∧
          t.scrub = s.scrub ∧
          ringAnswered s.ring t.ring
            ⟨.ok, 0, r.kind, r.seq, .extent x 0 (some .shared) (s.extent x.toNat).refs⟩))

/-- A SIDEBAND request of a powered slot: the direction, the register and a write to registers 0 to 7 are refused with
BAD_FIELD, a full queue or a waiting identity job with BUSY; otherwise a job joins the tail, and the request is no longer in
execution though its place stays reserved. With no job running the head of the queue is taken, and its access begins in
LINE_CHECK, which ends at once where SBDAT is high (R30 to R32, R36, R184). -/
def Obligations.SidebandRequestIsQueued : Prop :=
  ∀ (s : State) (r : Request) (n : SlotId), s.executing r 10 → r.names n →
    ((s.slot n).state ∈ [.identifying, .pending, .probing, .settling, .live, .holding, .held, .grace] ∨
      ((s.slot n).state = .retiring ∧ (s.slot n).pwrEn = true)) →
    (r.p4.toNat ≠ 1 → r.p4.toNat ≠ 2 →
      exec .sideband s = .next (s.answeredWith ⟨.badField, r.slot, r.kind, r.seq, .field 1⟩)) ∧
    ((r.p4.toNat = 1 ∨ r.p4.toNat = 2) → (31 < r.p5.toNat ∨ (r.p4.toNat = 2 ∧ r.p5.toNat ≤ 7)) →
      exec .sideband s = .next (s.answeredWith ⟨.badField, r.slot, r.kind, r.seq, .field 2⟩)) ∧
    ((r.p4.toNat = 1 ∨ (r.p4.toNat = 2 ∧ 8 ≤ r.p5.toNat)) → r.p5.toNat ≤ 31 →
      (16 ≤ s.sb.queue.length ∨ s.sb.waiting ≠ []) →
      exec .sideband s = .next (s.answeredWith ⟨.busy, r.slot, r.kind, r.seq, .nothing⟩)) ∧
    ((r.p4.toNat = 1 ∨ (r.p4.toNat = 2 ∧ 8 ≤ r.p5.toNat)) → r.p5.toNat ≤ 31 → s.sb.queue.length < 16 →
      s.sb.waiting = [] →
      ∃ t j, exec .sideband s = .next t ∧
        j = Job.request n (decide (r.p4.toNat = 2)) r.p5 (if r.p4.toNat = 2 then r.p7 ++ r.p6 else 0) r.seq ∧
        t = { s with
          ring := { s.ring with exec := none }, sb := s.takesHead { s.sb with queue := s.sb.queue ++ [j] } })

/-- A QUERY in every slot state is answered OK with the incarnation, the state and the ten counters as they stood; with the
clear flag the counters are 0 after it, and nothing else changes, the status block among it (R26, R190). -/
def Obligations.QueryReadsAndClears : Prop :=
  ∀ (s : State) (r : Request) (n : SlotId), s.executing r 11 → r.names n →
    ∃ t, exec .query s = .next t ∧
      t.slot n = { s.slot n with
        counters := if r.p4.getLsbD 0 then ⟨0, 0, 0, 0, 0, 0, 0, 0, 0, 0⟩ else (s.slot n).counters } ∧
      t = { s.answeredWith ⟨.ok, r.slot, r.kind, r.seq,
        .query (s.slot n).incarnation (s.slot n).state (s.slot n).counters⟩ with slots := t.slots } ∧
      ∀ m, m ≠ n → t.slot m = s.slot m

/-- A DETACH while some slot is in a state with traffic, PROBING or VACATING is refused BAD_STATE; otherwise every slot
takes its reset values but for the debounced levels, the Sideband Engine and the Scrub Engine theirs, the Extent Table its
own, the RING and SCRUB entries in flight are orphaned, the responses among them become FULL, queued fetches and writes of
slot entries and extent map beats are removed and every other request stays, and the ring state is DRAINING with the
header alone owed, by a write that waits or by its stale mark, the sideband requests answered NO_BLADE ahead of the
response (R27, R28, R40, R83, R127, R168, R177, R186, R191). That the header is not stale while a write of it waits (log
32), and that an attach result write stays (log 26), are read from the manual by the model. The model's choices: the slot
byte of the response is 0 (log 22); the NO_BLADE answers of all slots stand with the running job's first and then in queue
order (log 25); the parameters stand (log 1). -/
def Obligations.DetachEndsTheAttachment : Prop :=
  ∀ (s : State) (r : Request), s.executing r 12 →
    ((∃ n, (s.slot n).state ∈ [.probing, .settling, .live, .holding, .held, .grace, .retiring, .vacating]) →
      exec .detach s = .next (s.answeredWith ⟨.badState, 0, r.kind, r.seq, .nothing⟩)) ∧
    ((∀ n, (s.slot n).state ∈ [.empty, .seating, .powering, .identifying, .pending, .retired, .faulted]) →
      ∃ t, exec .detach s = .next t ∧ t.now = s.now ∧ keepsRest s t ∧
        (∀ n, t.slot n = { Slot.reset with
          present := (s.slot n).present, eject := (s.slot n).eject, pwrGood := (s.slot n).pwrGood }) ∧
        t.sb = { Sideband.reset with timeout := s.sb.timeout } ∧ t.scrub = ScrubEngine.reset ∧
        (∀ x, t.extent x = Extent.free) ∧ t.ext.queue = [] ∧ t.ext.count = 0 ∧
        t.ext.discards = s.ext.discards ∧
        entriesBecome s t (fun e =>
          if (e.who = .ring ∨ e.who = .scrub) ∧ (e.state = .issued ∨ e.state = .late) then
            { e with state := .orphan, held := .none }
          else e) ∧
        t.ring.state = .draining ∧ t.ring.held = none ∧ t.ring.exec = none ∧ t.ring.lost = s.ring.lost ∧
        (t.ring.queue ++ t.ring.waiting = (s.ring.queue ++ s.ring.waiting).filter fun op => match op with
          | .taken _ | .response _ _ | .status .header | .attachResult _ _ => true
          | .fetch _ | .status (.slot _) | .status (.extentMap _) => false) ∧
        (t.ring.stale = if RingOp.status .header ∈ t.ring.queue then [] else [.header]) ∧
        (∀ i : Fin 256, t.ring.mirror.get i =
          if s.ring.mirror.get i = .writing ∧ ∃ k last, (s.entry k).who = .ring ∧ (s.entry k).state = .issued ∧
            (s.entry k).tag = .ring (.response i.val last) then .full else s.ring.mirror.get i) ∧
        t.ring.pend = s.ring.pend ++ noBladeAnswers (s.sb.running.toList ++ s.sb.queue) ++
          [.response ⟨.ok, 0, r.kind, r.seq, .nothing⟩])

/-! ## The Ring Interface's writes and the Scrub Engine -/

/-- An event handed over while the part is attached joins the tail of the pending response queue where a place is
unreserved; otherwise it is lost, the lost-event count rises by 1 short of its limit, and the header is owed a write (R185,
R189). That it is discarded uncounted while the part is not attached is read from the manual by the model (log 21).
The head of the pending response queue is queued for the entry at the producer index when that is mirrored EMPTY, a
place is free, no status unit is stale and no take is due: the mirror WRITING, the index advanced, ATTN asserted
exactly when the mirror then holds a FULL entry; the first stale unit is queued before any response, and leaves the
stale set (R186, R188, R189). -/
def Obligations.RecordsAreHandedOverAndWritten : Prop :=
  (∀ (s : State) (e : Event),
    (s.ring.state = .attached → s.ring.pend.length + s.ring.reserved < 32 →
      s.postEvent e = { s with ring := { s.ring with pend := s.ring.pend ++ [.event e] } }) ∧
    (s.ring.state = .attached → 32 ≤ s.ring.pend.length + s.ring.reserved →
      ∃ lost stale, s.postEvent e = { s with ring := { s.ring with lost := lost, stale := stale } } ∧
        lost.toNat = min (s.ring.lost.toNat + 1) 4294967295 ∧
        ∀ u, u ∈ stale ↔ u ∈ s.ring.stale ∨ (u = .header ∧ RingOp.status .header ∉ s.ring.queue)) ∧
    (s.ring.state ≠ .attached → s.postEvent e = s)) ∧
  ∀ s : State, s.ring.state ≠ .detached → s.ring.queue.length < 16 → s.ring.waiting = [] → s.ring.held = none →
    (∀ (h : RingRecord) (rest : List RingRecord) (i : Fin 256), s.ring.pend = h :: rest → s.ring.stale = [] →
      s.ring.producer = i.val → s.ring.mirror.get i = .empty →
      ∃ t, exec .responseWrite s = .next t ∧
        t = { s with
          ring := { s.ring with
            queue := s.ring.queue ++ [.response i.val h], mirror := s.ring.mirror.set i.val .writing i.isLt,
            attn := t.ring.attn, producer := (i.val + 1) % s.ring.respSize, pend := rest } } ∧
        t.ring.attn = t.ring.anyFull) ∧
    (∀ u us, s.ring.stale = u :: us →
      exec .responseWrite s = .next s ∧
      exec .statusUnitWrite s = .next { s with
        ring := { s.ring with queue := s.ring.queue ++ [.status u], stale := us } })

/-- An idle Scrub Engine that does not wait takes the head of the queue: SCRUBBING and current when no entry addresses it,
back at the tail with the deferral count raised when one does; one that has an extent, waits or is not attached takes none
(R168, R170). That a deferral ends the step, and the new head is the
next SCRUB_TAKE's, is the model's choice (log 13). -/
def Obligations.ScrubTakesOrDefers : Prop :=
  (∀ s : State, s.ring.state ≠ .attached ∨ s.scrub.current ≠ none ∨ s.ext.queue.length ≤ s.scrub.deferral →
    exec .scrubTake s = .next s) ∧
  ∀ (s : State) (x : Nat) (rest : List Nat), s.ring.state = .attached → s.scrub.current = none → x < 2048 →
    s.ext.queue = x :: rest → s.scrub.deferral < s.ext.queue.length →
    ((∃ k, (s.entry k).addresses (s.ext.base.toNat + x * 65536) = true) →
      exec .scrubTake s = .next { s with
        ext := { s.ext with queue := rest ++ [x] },
        scrub := { s.scrub with deferral := s.scrub.deferral + 1 } }) ∧
    ((∀ k, (s.entry k).addresses (s.ext.base.toNat + x * 65536) = false) →
      ∃ t, exec .scrubTake s = .next t ∧ t.now = s.now ∧ t.extent x = ⟨.scrubbing, none, 0, false⟩ ∧
        (∀ y, y ≠ x → t.extent y = s.extent y) ∧ t.ext = { s.ext with records := t.ext.records, queue := rest } ∧
        t.scrub = ⟨some x, 0, 0, 0, 0, 0⟩ ∧ t.slots = s.slots ∧ t.sb = s.sb ∧ t.trk = s.trk ∧ keepsRest s t ∧
        t.ring = { s.ring with stale := t.ring.stale })

/-- A pass that has its 256 acknowledgements and no entry of SCRUB in ISSUED or LATE ends: the extent FREE without errors
and BAD with EXTENT_BAD otherwise. With no extent behind it the engine is idle, and SCRUB_IDLE is posted with the counts
after the pass. With an extent behind it the engine takes the head of the queue in the same step, or defers it while an
entry addresses it, or waits where each has been deferred, and SCRUB_IDLE is not posted (R170, R171, R174, R175). That a
deferral ends the step is the model's choice (log 13). -/
def Obligations.ScrubPassEnds : Prop :=
  ∀ (s : State) (x : Nat), s.ring.state = .attached → s.ext.count ≤ 2048 → x < 2048 → s.scrub.current = some x →
    s.scrub.acks = 256 →
    (∀ k, (s.entry k).who = .scrub → (s.entry k).state ≠ .issued ∧ (s.entry k).state ≠ .late) →
    ∃ t, exec .scrubPassEnd s = .next t ∧ t.now = s.now ∧ t.slots = s.slots ∧ t.sb = s.sb ∧ t.trk = s.trk ∧
      keepsRest s t ∧ t.ext = { s.ext with records := t.ext.records, queue := t.ext.queue } ∧
      (x ∉ s.ext.queue → t.extent x = ⟨if s.scrub.errors = 0 then .free else .bad, none, 0, false⟩) ∧
      ∃ r : Ring, (∃ q : Ring, q = { s.ring with stale := q.stale } ∧
          r = if s.scrub.errors = 0 then q else q.postEvent (.extentBad x s.scrub.errors s.scrub.timeouts)) ∧
        (s.ext.queue = [] →
          (∀ y, y ≠ x → t.extent y = s.extent y) ∧ t.ext.queue = [] ∧
          t.scrub = ⟨none, 0, 0, 0, 0, s.scrub.deferral⟩ ∧
          t.ring = r.postEvent (.scrubIdle (t.countIn [.free]) (t.countIn [.bad]))) ∧
        (∀ y rest, s.ext.queue = y :: rest → y < 2048 → t.ring = { r with stale := t.ring.stale } ∧
          (s.scrub.deferral < s.ext.queue.length →
            (∀ k, (s.entry k).addresses (s.ext.base.toNat + y * 65536) = false) →
            t.extent y = ⟨.scrubbing, none, 0, false⟩ ∧ (∀ z, z ≠ x → z ≠ y → t.extent z = s.extent z) ∧
            t.ext.queue = rest ∧ t.scrub = ⟨some y, 0, 0, 0, 0, 0⟩) ∧
          (s.scrub.deferral < s.ext.queue.length →
            (∃ k, (s.entry k).addresses (s.ext.base.toNat + y * 65536) = true) →
            (∀ z, z ≠ x → t.extent z = s.extent z) ∧ t.ext.queue = rest ++ [y] ∧
            t.scrub = ⟨none, 0, 0, 0, 0, s.scrub.deferral + 1⟩) ∧
          (s.ext.queue.length ≤ s.scrub.deferral →
            (∀ z, z ≠ x → t.extent z = s.extent z) ∧ t.ext.queue = s.ext.queue ∧
            t.scrub = ⟨none, 0, 0, 0, 0, s.scrub.deferral⟩))

/-! ## Records and the status block -/

/-- The codes of chapter 11, and every record that the part writes byte by byte: a slot entry, the header and the extent map
of the status block, a response by its result, an event by its kind, and beat 15 of the attach record, each with 0 in every
other byte, least significant byte first (R104, R193); and the fields that it reads of a request ring entry and of an attach
record, with their owner byte and marker (R181, R192). -/
def Obligations.RecordsAreLaidOut : Prop :=
  (([.empty, .seating, .powering, .identifying, .pending, .probing, .settling, .live, .holding, .held, .grace, .retiring,
      .retired, .faulted, .vacating] : List SlotState).map SlotState.code = List.range 15 ∧
    ([.powerTimeout, .powerLost, .identityTimeout, .identityCheck, .lane, .key, .glitch, .probeTimeout, .link] :
      List FaultCause).map FaultCause.code = List.range' 1 9 ∧
    ([.ok, .accepted, .badRequest, .badSlot, .badState, .badField, .extentState, .busy, .timeout, .noBlade] :
      List Status).map Status.code = List.range' 1 10 ∧
    ([.free, .owned, .shared, .dirty, .scrubbing, .bad] : List ExtentState).map ExtentState.code = List.range 6 ∧
    ([.outOfWindow, .oversize, .boundary, .unmapped, .readOnly] : List ViolationCause).map ViolationCause.code =
      List.range' 1 5 ∧
    ([.issued, .late, .waiting, .orphan] : List EntryState).map EntryState.code = List.range' 1 4 ∧
    kindCode .read = 1 ∧ kindCode .write = 2 ∧ (∀ n : SlotId, Participant.code (.slot n) = n.val + 1) ∧
    Participant.code .control = 15 ∧ Participant.code .ring = 16 ∧ Participant.code .scrub = 17) ∧
  (∀ sl : Slot, writesBytes (writeBeats sl.statusFields 4)
    (leBytes 1 sl.state.code ++ leBytes 1 ((sl.resume.map SlotState.code).getD 0) ++ leBytes 2 sl.incarnation.toNat ++
      leBytes 1 ((sl.fault.map FaultCause.code).getD 0) ++ leBytes 1 sl.forced.toNat ++ leBytes 1 sl.effCredit ++
      leBytes 1 (sl.present.toNat + 2 * sl.eject.toNat + 4 * sl.pwrGood.toNat) ++ zeroBytes 24)) ∧
  (∀ s : State, s.ext.count ≤ 2048 →
    writesBytes (writeBeats (headerFields s.ext s.ring) 8)
      ([if s.ring.state = .attached then 1 else 0] ++ zeroBytes 3 ++ leBytes 2 (s.countIn [.free]) ++
        leBytes 2 (s.countIn [.shared]) ++ leBytes 2 (s.countIn [.dirty, .scrubbing]) ++ leBytes 2 (s.countIn [.bad]) ++
        leBytes 2 s.ext.queue.length ++ zeroBytes 2 ++ leBytes 4 s.ring.lost.toNat ++ leBytes 4 s.ext.discards.toNat ++
        zeroBytes 40) ∧
    ∀ (k : Fin 64) (j : Fin 32), (BitVec.ofNat 64 (extentMapValue s.ext k.val)).extractLsb' (2 * j.val) 2 =
      if 32 * k.val + j.val < s.ext.count then
        match (s.extent (32 * k.val + j.val)).state with
        | .free => 0
        | .owned | .shared => 1
        | .dirty | .scrubbing => 2
        | .bad => 3
      else 0) ∧
  (∀ r : Response, writesBytes (writeBeats (RingRecord.response r).fields 4) r.bytes) ∧
  (∀ e : Event, writesBytes (writeBeats (RingRecord.event e).fields 4) e.bytes) ∧
  (∀ (st : Status) (field : Nat), field < 256 →
    writesBytes [⟨0xFF, BitVec.ofNat 64 (st.code + 256 * field)⟩]
      (leBytes 1 st.code ++ leBytes 1 field ++ zeroBytes 6)) ∧
  (∀ w0 w1 w2 w3 : Beat,
    Request.parse [w0, w1, w2, w3] = ⟨w0.extractLsb' 0 8, w0.extractLsb' 8 8, w0.extractLsb' 16 16, w0.extractLsb' 32 8,
      w0.extractLsb' 40 8, w0.extractLsb' 48 8, w0.extractLsb' 56 8, w1.extractLsb' 0 8, w1.extractLsb' 8 8⟩ ∧
    ownerByte [w0, w1, w2, w3] = w3.extractLsb' 56 8) ∧
  (∀ (w0 w1 w2 w3 w4 w5 w6 w7 : Beat) (rest : List Beat),
    (hasMarker (w0 :: w1 :: w2 :: w3 :: w4 :: w5 :: w6 :: w7 :: rest) = true ↔ w0 = 0x412D54454A534152) ∧
    AttachRecord.parse (w0 :: w1 :: w2 :: w3 :: w4 :: w5 :: w6 :: w7 :: rest) = {
      reqBase := (w1.extractLsb' 0 40).toNat, reqSize := (w1.extractLsb' 48 16).toNat,
      respBase := (w2.extractLsb' 0 40).toNat, respSize := (w2.extractLsb' 48 16).toNat,
      statusBase := (w3.extractLsb' 0 40).toNat, managedBase := (w4.extractLsb' 0 40).toNat,
      extentCount := (w4.extractLsb' 48 16).toNat, fill := w5.extractLsb' 0 8, scrubAtAttach := w5.getLsbD 8,
      autoRetire := w5.getLsbD 9, debounce := (w5.extractLsb' 16 8).toNat, powerLimit := (w5.extractLsb' 24 8).toNat,
      sidebandTimeout := (w5.extractLsb' 32 8).toNat, probeLimit := (w5.extractLsb' 40 8).toNat,
      glitchLimit := (w5.extractLsb' 48 8).toNat, rampStep := (w5.extractLsb' 56 8).toNat,
      grace := (w6.extractLsb' 0 16).toNat, holdLimit := (w6.extractLsb' 16 16).toNat,
      drainLimit := (w6.extractLsb' 32 16).toNat, completionTimeout := (w6.extractLsb' 48 16).toNat,
      scrubPace := (w7.extractLsb' 0 8).toNat })

/-- While the part is attached, no command and no time loses a write that the status block is owed: a unit that was stale
or had a write waiting is so afterwards, and so is every unit of which a value that it shows has changed. A grant, from
the state at its decision, takes away only the write that it sends, which carries the values at the grant (R104, R189).
That time passes until the decision is the model's choice (log 5). -/
def Obligations.ChangedUnitsAreOwed : Prop :=
  (∀ (s t : State) (c : Instr), (∀ elapsed, c ≠ .grant elapsed) → s.ring.state = .attached → t.ring.state = .attached →
    exec c s = .next t → keepsOwed s t) ∧
  (∀ (s : State) (m : Nat), s.ring.state = .attached → (s.reach m).ring.state = .attached ∧ keepsOwed s (s.reach m)) ∧
  (∀ (before s t : State) (elapsed : Nat), s = before.reach (before.now + elapsed) → s.ring.state = .attached →
    exec (.grant elapsed) before = .next t →
    ∀ u, t.owes u ∨ (t.unitShows u = s.unitShows u ∧ (s.owes u → s.grantsNext .ring ∧ s.ring.queue.head? = some (.status u))))

/-! ## What every step keeps -/

/-- Every step keeps the lines, the intake, the fields, the timer, the places and the queue of every slot at what its state
asks for, and every slot EMPTY while the part is not attached (R1 to R3, R8, R24, R60, R63, R64, R74). -/
def Obligations.StepKeepsTheSlots : Prop :=
  ∀ s t : State, s.slotsOk → step s = .next t → t.slotsOk

/-- Every step keeps ATTN equal to the mirror's holding a FULL entry, deasserted throughout DETACHED, the ring request queue
within its 16 places, and the extent count, the scrub queue and the extent being scrubbed within the 2,048 extent records
(R82, R83, R168, R180, R187, R188). -/
def Obligations.StepKeepsTheRing : Prop :=
  ∀ s t : State, s.ringOk → step s = .next t → t.ringOk

/-- Every step keeps each reserved place owned by the request in execution or by an unanswered SIDEBAND request, entries
and reserved places within 32, the job queue and the control queue within 16, the waiting identity set ascending and empty
while the queue has a place, no job waiting while none runs, and the access phase IDLE exactly when no job runs (R28, R30,
R32, R33, R178, R184, R185). That an access that failed in ACK_WAIT has its job in STOP until its stop mark is sent is the
model's reading (log 9). -/
def Obligations.StepKeepsReservationsAndQueues : Prop :=
  ∀ s t : State, s.placesReserved → s.queuesOk → step s = .next t → t.placesReserved ∧ t.queuesOk

/-- Every step keeps every slot's entries in ISSUED, LATE and WAITING within its effective credit and of its current
incarnation, those of a VACATING slot writes, and only reads in WAITING (R5, R24, R108, R111). -/
def Obligations.StepKeepsTheCredits : Prop :=
  ∀ s t : State, s.trafficOk → step s = .next t → t.trafficOk

/-- The state after RESET has every property that every step keeps. -/
def Obligations.ResetHasTheInvariants : Prop :=
  State.reset.trafficOk ∧ State.reset.ringOk ∧ State.reset.placesReserved ∧ State.reset.queuesOk
end

