-- ==== Sys2Proof/Laws/State.lean ====
section
/-! SUPPORT. What each named update of the state leaves unchanged: one lemma per field, true by rfl, so that no proof
unfolds a record update. -/

namespace Sys2Proof.Machine

variable (s : State)

/-! ### markStale -/

@[simp] theorem State.markStale_slots (u : StatusUnit) : (s.markStale u).slots = s.slots := rfl
@[simp] theorem State.markStale_sb (u : StatusUnit) : (s.markStale u).sb = s.sb := rfl
@[simp] theorem State.markStale_trk (u : StatusUnit) : (s.markStale u).trk = s.trk := rfl
@[simp] theorem State.markStale_ext (u : StatusUnit) : (s.markStale u).ext = s.ext := rfl
@[simp] theorem State.markStale_scrub (u : StatusUnit) : (s.markStale u).scrub = s.scrub := rfl
@[simp] theorem State.markStale_ctl (u : StatusUnit) : (s.markStale u).ctl = s.ctl := rfl
@[simp] theorem State.markStale_params (u : StatusUnit) : (s.markStale u).params = s.params := rfl
@[simp] theorem State.markStale_attachSel (u : StatusUnit) : (s.markStale u).attachSel = s.attachSel := rfl
@[simp] theorem State.markStale_now (u : StatusUnit) : (s.markStale u).now = s.now := rfl
@[simp] theorem State.markStale_drawn (u : StatusUnit) : (s.markStale u).drawn = s.drawn := rfl
@[simp] theorem State.markStale_pending (u : StatusUnit) : (s.markStale u).pending = s.pending := rfl
@[simp] theorem State.markStale_slot (u : StatusUnit) (m : SlotId) : (s.markStale u).slot m = s.slot m := rfl
@[simp] theorem State.markStale_entry (u : StatusUnit) (k : MemTag) : (s.markStale u).entry k = s.entry k := rfl

/-! ### postEvent -/

@[simp] theorem State.postEvent_slots (e : Event) : (s.postEvent e).slots = s.slots := rfl
@[simp] theorem State.postEvent_sb (e : Event) : (s.postEvent e).sb = s.sb := rfl
@[simp] theorem State.postEvent_trk (e : Event) : (s.postEvent e).trk = s.trk := rfl
@[simp] theorem State.postEvent_ext (e : Event) : (s.postEvent e).ext = s.ext := rfl
@[simp] theorem State.postEvent_scrub (e : Event) : (s.postEvent e).scrub = s.scrub := rfl
@[simp] theorem State.postEvent_ctl (e : Event) : (s.postEvent e).ctl = s.ctl := rfl
@[simp] theorem State.postEvent_params (e : Event) : (s.postEvent e).params = s.params := rfl
@[simp] theorem State.postEvent_attachSel (e : Event) : (s.postEvent e).attachSel = s.attachSel := rfl
@[simp] theorem State.postEvent_now (e : Event) : (s.postEvent e).now = s.now := rfl
@[simp] theorem State.postEvent_drawn (e : Event) : (s.postEvent e).drawn = s.drawn := rfl
@[simp] theorem State.postEvent_pending (e : Event) : (s.postEvent e).pending = s.pending := rfl
@[simp] theorem State.postEvent_slot (e : Event) (m : SlotId) : (s.postEvent e).slot m = s.slot m := rfl
@[simp] theorem State.postEvent_entry (e : Event) (k : MemTag) : (s.postEvent e).entry k = s.entry k := rfl

/-! ### respond -/

@[simp] theorem State.respond_slots (a : Response) : (s.respond a).slots = s.slots := rfl
@[simp] theorem State.respond_sb (a : Response) : (s.respond a).sb = s.sb := rfl
@[simp] theorem State.respond_trk (a : Response) : (s.respond a).trk = s.trk := rfl
@[simp] theorem State.respond_ext (a : Response) : (s.respond a).ext = s.ext := rfl
@[simp] theorem State.respond_scrub (a : Response) : (s.respond a).scrub = s.scrub := rfl
@[simp] theorem State.respond_ctl (a : Response) : (s.respond a).ctl = s.ctl := rfl
@[simp] theorem State.respond_params (a : Response) : (s.respond a).params = s.params := rfl
@[simp] theorem State.respond_attachSel (a : Response) : (s.respond a).attachSel = s.attachSel := rfl
@[simp] theorem State.respond_now (a : Response) : (s.respond a).now = s.now := rfl
@[simp] theorem State.respond_drawn (a : Response) : (s.respond a).drawn = s.drawn := rfl
@[simp] theorem State.respond_pending (a : Response) : (s.respond a).pending = s.pending := rfl
@[simp] theorem State.respond_slot (a : Response) (m : SlotId) : (s.respond a).slot m = s.slot m := rfl
@[simp] theorem State.respond_entry (a : Response) (k : MemTag) : (s.respond a).entry k = s.entry k := rfl

/-! ### finish -/

@[simp] theorem State.finish_slots (a : Response) : (s.finish a).slots = s.slots := rfl
@[simp] theorem State.finish_sb (a : Response) : (s.finish a).sb = s.sb := rfl
@[simp] theorem State.finish_trk (a : Response) : (s.finish a).trk = s.trk := rfl
@[simp] theorem State.finish_ext (a : Response) : (s.finish a).ext = s.ext := rfl
@[simp] theorem State.finish_scrub (a : Response) : (s.finish a).scrub = s.scrub := rfl
@[simp] theorem State.finish_ctl (a : Response) : (s.finish a).ctl = s.ctl := rfl
@[simp] theorem State.finish_params (a : Response) : (s.finish a).params = s.params := rfl
@[simp] theorem State.finish_attachSel (a : Response) : (s.finish a).attachSel = s.attachSel := rfl
@[simp] theorem State.finish_now (a : Response) : (s.finish a).now = s.now := rfl
@[simp] theorem State.finish_drawn (a : Response) : (s.finish a).drawn = s.drawn := rfl
@[simp] theorem State.finish_pending (a : Response) : (s.finish a).pending = s.pending := rfl
@[simp] theorem State.finish_slot (a : Response) (m : SlotId) : (s.finish a).slot m = s.slot m := rfl
@[simp] theorem State.finish_entry (a : Response) (k : MemTag) : (s.finish a).entry k = s.entry k := rfl

/-! ### modSlot -/

@[simp] theorem State.modSlot_sb (n : SlotId) (f : Slot → Slot) : (s.modSlot n f).sb = s.sb := rfl
@[simp] theorem State.modSlot_trk (n : SlotId) (f : Slot → Slot) : (s.modSlot n f).trk = s.trk := rfl
@[simp] theorem State.modSlot_ext (n : SlotId) (f : Slot → Slot) : (s.modSlot n f).ext = s.ext := rfl
@[simp] theorem State.modSlot_scrub (n : SlotId) (f : Slot → Slot) : (s.modSlot n f).scrub = s.scrub := rfl
@[simp] theorem State.modSlot_ctl (n : SlotId) (f : Slot → Slot) : (s.modSlot n f).ctl = s.ctl := rfl
@[simp] theorem State.modSlot_params (n : SlotId) (f : Slot → Slot) : (s.modSlot n f).params = s.params := rfl
@[simp] theorem State.modSlot_attachSel (n : SlotId) (f : Slot → Slot) : (s.modSlot n f).attachSel = s.attachSel := rfl
@[simp] theorem State.modSlot_now (n : SlotId) (f : Slot → Slot) : (s.modSlot n f).now = s.now := rfl
@[simp] theorem State.modSlot_drawn (n : SlotId) (f : Slot → Slot) : (s.modSlot n f).drawn = s.drawn := rfl
@[simp] theorem State.modSlot_pending (n : SlotId) (f : Slot → Slot) : (s.modSlot n f).pending = s.pending := rfl
@[simp] theorem State.modSlot_entry (n : SlotId) (f : Slot → Slot) (k : MemTag) : (s.modSlot n f).entry k = s.entry k := rfl

/-! ### setEntry -/

@[simp] theorem State.setEntry_slots (t : MemTag) (e : Entry) : (s.setEntry t e).slots = s.slots := rfl
@[simp] theorem State.setEntry_sb (t : MemTag) (e : Entry) : (s.setEntry t e).sb = s.sb := rfl
@[simp] theorem State.setEntry_ext (t : MemTag) (e : Entry) : (s.setEntry t e).ext = s.ext := rfl
@[simp] theorem State.setEntry_scrub (t : MemTag) (e : Entry) : (s.setEntry t e).scrub = s.scrub := rfl
@[simp] theorem State.setEntry_ctl (t : MemTag) (e : Entry) : (s.setEntry t e).ctl = s.ctl := rfl
@[simp] theorem State.setEntry_ring (t : MemTag) (e : Entry) : (s.setEntry t e).ring = s.ring := rfl
@[simp] theorem State.setEntry_params (t : MemTag) (e : Entry) : (s.setEntry t e).params = s.params := rfl
@[simp] theorem State.setEntry_attachSel (t : MemTag) (e : Entry) : (s.setEntry t e).attachSel = s.attachSel := rfl
@[simp] theorem State.setEntry_now (t : MemTag) (e : Entry) : (s.setEntry t e).now = s.now := rfl
@[simp] theorem State.setEntry_drawn (t : MemTag) (e : Entry) : (s.setEntry t e).drawn = s.drawn := rfl
@[simp] theorem State.setEntry_pending (t : MemTag) (e : Entry) : (s.setEntry t e).pending = s.pending := rfl
@[simp] theorem State.setEntry_slot (t : MemTag) (e : Entry) (m : SlotId) : (s.setEntry t e).slot m = s.slot m := rfl

/-! ### freeEntry -/

@[simp] theorem State.freeEntry_slots (t : MemTag) : (s.freeEntry t).slots = s.slots := rfl
@[simp] theorem State.freeEntry_sb (t : MemTag) : (s.freeEntry t).sb = s.sb := rfl
@[simp] theorem State.freeEntry_ext (t : MemTag) : (s.freeEntry t).ext = s.ext := rfl
@[simp] theorem State.freeEntry_ctl (t : MemTag) : (s.freeEntry t).ctl = s.ctl := rfl
@[simp] theorem State.freeEntry_ring (t : MemTag) : (s.freeEntry t).ring = s.ring := rfl
@[simp] theorem State.freeEntry_params (t : MemTag) : (s.freeEntry t).params = s.params := rfl
@[simp] theorem State.freeEntry_attachSel (t : MemTag) : (s.freeEntry t).attachSel = s.attachSel := rfl
@[simp] theorem State.freeEntry_now (t : MemTag) : (s.freeEntry t).now = s.now := rfl
@[simp] theorem State.freeEntry_drawn (t : MemTag) : (s.freeEntry t).drawn = s.drawn := rfl
@[simp] theorem State.freeEntry_pending (t : MemTag) : (s.freeEntry t).pending = s.pending := rfl
@[simp] theorem State.freeEntry_slot (t : MemTag) (m : SlotId) : (s.freeEntry t).slot m = s.slot m := rfl

/-! ### orphan -/

@[simp] theorem State.orphan_slots (n : SlotId) (sel : AccessKind → Bool) : (s.orphan n sel).slots = s.slots := by
  simp only [State.orphan]
@[simp] theorem State.orphan_sb (n : SlotId) (sel : AccessKind → Bool) : (s.orphan n sel).sb = s.sb := by
  simp only [State.orphan]
@[simp] theorem State.orphan_ext (n : SlotId) (sel : AccessKind → Bool) : (s.orphan n sel).ext = s.ext := by
  simp only [State.orphan]
@[simp] theorem State.orphan_scrub (n : SlotId) (sel : AccessKind → Bool) : (s.orphan n sel).scrub = s.scrub := by
  simp only [State.orphan]
@[simp] theorem State.orphan_ctl (n : SlotId) (sel : AccessKind → Bool) : (s.orphan n sel).ctl = s.ctl := by
  simp only [State.orphan]
@[simp] theorem State.orphan_ring (n : SlotId) (sel : AccessKind → Bool) : (s.orphan n sel).ring = s.ring := by
  simp only [State.orphan]
@[simp] theorem State.orphan_params (n : SlotId) (sel : AccessKind → Bool) : (s.orphan n sel).params = s.params := by
  simp only [State.orphan]
@[simp] theorem State.orphan_attachSel (n : SlotId) (sel : AccessKind → Bool) : (s.orphan n sel).attachSel = s.attachSel := by
  simp only [State.orphan]
@[simp] theorem State.orphan_now (n : SlotId) (sel : AccessKind → Bool) : (s.orphan n sel).now = s.now := by
  simp only [State.orphan]
@[simp] theorem State.orphan_drawn (n : SlotId) (sel : AccessKind → Bool) : (s.orphan n sel).drawn = s.drawn := by
  simp only [State.orphan]
@[simp] theorem State.orphan_pending (n : SlotId) (sel : AccessKind → Bool) : (s.orphan n sel).pending = s.pending := by
  simp only [State.orphan]
@[simp] theorem State.orphan_slot (n : SlotId) (sel : AccessKind → Bool) (m : SlotId) : (s.orphan n sel).slot m = s.slot m := by
  simp [State.slot]

/-! ### freeWaiting -/

@[simp] theorem State.freeWaiting_slots (n : SlotId) : (s.freeWaiting n).slots = s.slots := by
  simp only [State.freeWaiting]
@[simp] theorem State.freeWaiting_sb (n : SlotId) : (s.freeWaiting n).sb = s.sb := by
  simp only [State.freeWaiting]
@[simp] theorem State.freeWaiting_ext (n : SlotId) : (s.freeWaiting n).ext = s.ext := by
  simp only [State.freeWaiting]
@[simp] theorem State.freeWaiting_ctl (n : SlotId) : (s.freeWaiting n).ctl = s.ctl := by
  simp only [State.freeWaiting]
@[simp] theorem State.freeWaiting_ring (n : SlotId) : (s.freeWaiting n).ring = s.ring := by
  simp only [State.freeWaiting]
@[simp] theorem State.freeWaiting_params (n : SlotId) : (s.freeWaiting n).params = s.params := by
  simp only [State.freeWaiting]
@[simp] theorem State.freeWaiting_attachSel (n : SlotId) : (s.freeWaiting n).attachSel = s.attachSel := by
  simp only [State.freeWaiting]
@[simp] theorem State.freeWaiting_now (n : SlotId) : (s.freeWaiting n).now = s.now := by
  simp only [State.freeWaiting]
@[simp] theorem State.freeWaiting_drawn (n : SlotId) : (s.freeWaiting n).drawn = s.drawn := by
  simp only [State.freeWaiting]
@[simp] theorem State.freeWaiting_pending (n : SlotId) : (s.freeWaiting n).pending = s.pending := by
  simp only [State.freeWaiting]
@[simp] theorem State.freeWaiting_slot (n : SlotId) (m : SlotId) : (s.freeWaiting n).slot m = s.slot m := by
  simp [State.slot]

/-! ### joinScrub -/

@[simp] theorem State.joinScrub_slots (x : Nat) : (s.joinScrub x).slots = s.slots := rfl
@[simp] theorem State.joinScrub_sb (x : Nat) : (s.joinScrub x).sb = s.sb := rfl
@[simp] theorem State.joinScrub_trk (x : Nat) : (s.joinScrub x).trk = s.trk := rfl
@[simp] theorem State.joinScrub_ctl (x : Nat) : (s.joinScrub x).ctl = s.ctl := rfl
@[simp] theorem State.joinScrub_params (x : Nat) : (s.joinScrub x).params = s.params := rfl
@[simp] theorem State.joinScrub_attachSel (x : Nat) : (s.joinScrub x).attachSel = s.attachSel := rfl
@[simp] theorem State.joinScrub_now (x : Nat) : (s.joinScrub x).now = s.now := rfl
@[simp] theorem State.joinScrub_drawn (x : Nat) : (s.joinScrub x).drawn = s.drawn := rfl
@[simp] theorem State.joinScrub_pending (x : Nat) : (s.joinScrub x).pending = s.pending := rfl
@[simp] theorem State.joinScrub_slot (x : Nat) (m : SlotId) : (s.joinScrub x).slot m = s.slot m := rfl
@[simp] theorem State.joinScrub_entry (x : Nat) (k : MemTag) : (s.joinScrub x).entry k = s.entry k := rfl

/-! ### isolate -/

@[simp] theorem State.isolate_sb (n : SlotId) : (s.isolate n).sb = s.sb := rfl
@[simp] theorem State.isolate_trk (n : SlotId) : (s.isolate n).trk = s.trk := rfl
@[simp] theorem State.isolate_ext (n : SlotId) : (s.isolate n).ext = s.ext := rfl
@[simp] theorem State.isolate_scrub (n : SlotId) : (s.isolate n).scrub = s.scrub := rfl
@[simp] theorem State.isolate_ctl (n : SlotId) : (s.isolate n).ctl = s.ctl := rfl
@[simp] theorem State.isolate_params (n : SlotId) : (s.isolate n).params = s.params := rfl
@[simp] theorem State.isolate_attachSel (n : SlotId) : (s.isolate n).attachSel = s.attachSel := rfl
@[simp] theorem State.isolate_now (n : SlotId) : (s.isolate n).now = s.now := rfl
@[simp] theorem State.isolate_drawn (n : SlotId) : (s.isolate n).drawn = s.drawn := rfl
@[simp] theorem State.isolate_pending (n : SlotId) : (s.isolate n).pending = s.pending := rfl
@[simp] theorem State.isolate_entry (n : SlotId) (k : MemTag) : (s.isolate n).entry k = s.entry k := rfl

/-! ### answerControl -/

@[simp] theorem State.answerControl_slots (a : ControlAnswer) : (s.answerControl a).slots = s.slots := rfl
@[simp] theorem State.answerControl_sb (a : ControlAnswer) : (s.answerControl a).sb = s.sb := rfl
@[simp] theorem State.answerControl_trk (a : ControlAnswer) : (s.answerControl a).trk = s.trk := rfl
@[simp] theorem State.answerControl_ext (a : ControlAnswer) : (s.answerControl a).ext = s.ext := rfl
@[simp] theorem State.answerControl_scrub (a : ControlAnswer) : (s.answerControl a).scrub = s.scrub := rfl
@[simp] theorem State.answerControl_ring (a : ControlAnswer) : (s.answerControl a).ring = s.ring := rfl
@[simp] theorem State.answerControl_params (a : ControlAnswer) : (s.answerControl a).params = s.params := rfl
@[simp] theorem State.answerControl_attachSel (a : ControlAnswer) : (s.answerControl a).attachSel = s.attachSel := rfl
@[simp] theorem State.answerControl_now (a : ControlAnswer) : (s.answerControl a).now = s.now := rfl
@[simp] theorem State.answerControl_drawn (a : ControlAnswer) : (s.answerControl a).drawn = s.drawn := rfl
@[simp] theorem State.answerControl_pending (a : ControlAnswer) : (s.answerControl a).pending = s.pending := rfl
@[simp] theorem State.answerControl_slot (a : ControlAnswer) (m : SlotId) : (s.answerControl a).slot m = s.slot m := rfl
@[simp] theorem State.answerControl_entry (a : ControlAnswer) (k : MemTag) : (s.answerControl a).entry k = s.entry k := rfl

/-! ### toRetiring -/

@[simp] theorem State.toRetiring_sb (n : SlotId) (p : Option PendingFault) : (s.toRetiring n p).sb = s.sb := rfl
@[simp] theorem State.toRetiring_trk (n : SlotId) (p : Option PendingFault) : (s.toRetiring n p).trk = s.trk := rfl
@[simp] theorem State.toRetiring_ext (n : SlotId) (p : Option PendingFault) : (s.toRetiring n p).ext = s.ext := rfl
@[simp] theorem State.toRetiring_scrub (n : SlotId) (p : Option PendingFault) : (s.toRetiring n p).scrub = s.scrub := rfl
@[simp] theorem State.toRetiring_ctl (n : SlotId) (p : Option PendingFault) : (s.toRetiring n p).ctl = s.ctl := rfl
@[simp] theorem State.toRetiring_params (n : SlotId) (p : Option PendingFault) : (s.toRetiring n p).params = s.params := rfl
@[simp] theorem State.toRetiring_attachSel (n : SlotId) (p : Option PendingFault) : (s.toRetiring n p).attachSel = s.attachSel := rfl
@[simp] theorem State.toRetiring_now (n : SlotId) (p : Option PendingFault) : (s.toRetiring n p).now = s.now := rfl
@[simp] theorem State.toRetiring_drawn (n : SlotId) (p : Option PendingFault) : (s.toRetiring n p).drawn = s.drawn := rfl
@[simp] theorem State.toRetiring_pending (n : SlotId) (p : Option PendingFault) : (s.toRetiring n p).pending = s.pending := rfl
@[simp] theorem State.toRetiring_entry (n : SlotId) (p : Option PendingFault) (k : MemTag) : (s.toRetiring n p).entry k = s.entry k := rfl

/-! ### slotWriteError -/

@[simp] theorem State.slotWriteError_sb (n : SlotId) (e : Entry) (st : EntryState) : (s.slotWriteError n e st).sb = s.sb := rfl
@[simp] theorem State.slotWriteError_trk (n : SlotId) (e : Entry) (st : EntryState) : (s.slotWriteError n e st).trk = s.trk := rfl
@[simp] theorem State.slotWriteError_ext (n : SlotId) (e : Entry) (st : EntryState) : (s.slotWriteError n e st).ext = s.ext := rfl
@[simp] theorem State.slotWriteError_scrub (n : SlotId) (e : Entry) (st : EntryState) : (s.slotWriteError n e st).scrub = s.scrub := rfl
@[simp] theorem State.slotWriteError_ctl (n : SlotId) (e : Entry) (st : EntryState) : (s.slotWriteError n e st).ctl = s.ctl := rfl
@[simp] theorem State.slotWriteError_params (n : SlotId) (e : Entry) (st : EntryState) : (s.slotWriteError n e st).params = s.params := rfl
@[simp] theorem State.slotWriteError_attachSel (n : SlotId) (e : Entry) (st : EntryState) : (s.slotWriteError n e st).attachSel = s.attachSel := rfl
@[simp] theorem State.slotWriteError_now (n : SlotId) (e : Entry) (st : EntryState) : (s.slotWriteError n e st).now = s.now := rfl
@[simp] theorem State.slotWriteError_drawn (n : SlotId) (e : Entry) (st : EntryState) : (s.slotWriteError n e st).drawn = s.drawn := rfl
@[simp] theorem State.slotWriteError_pending (n : SlotId) (e : Entry) (st : EntryState) : (s.slotWriteError n e st).pending = s.pending := rfl
@[simp] theorem State.slotWriteError_entry (n : SlotId) (e : Entry) (st : EntryState) (k : MemTag) : (s.slotWriteError n e st).entry k = s.entry k := rfl

/-! ### dropReads -/

@[simp] theorem State.dropReads_sb (n : SlotId) : (s.dropReads n).sb = s.sb := by
  simp only [State.dropReads, State.modSlot_sb, State.freeWaiting_sb, State.orphan_sb]
@[simp] theorem State.dropReads_ext (n : SlotId) : (s.dropReads n).ext = s.ext := by
  simp only [State.dropReads, State.modSlot_ext, State.freeWaiting_ext, State.orphan_ext]
@[simp] theorem State.dropReads_ctl (n : SlotId) : (s.dropReads n).ctl = s.ctl := by
  simp only [State.dropReads, State.modSlot_ctl, State.freeWaiting_ctl, State.orphan_ctl]
@[simp] theorem State.dropReads_params (n : SlotId) : (s.dropReads n).params = s.params := by
  simp only [State.dropReads, State.modSlot_params, State.freeWaiting_params, State.orphan_params]
@[simp] theorem State.dropReads_attachSel (n : SlotId) : (s.dropReads n).attachSel = s.attachSel := by
  simp only [State.dropReads, State.modSlot_attachSel, State.freeWaiting_attachSel, State.orphan_attachSel]
@[simp] theorem State.dropReads_now (n : SlotId) : (s.dropReads n).now = s.now := by
  simp only [State.dropReads, State.modSlot_now, State.freeWaiting_now, State.orphan_now]
@[simp] theorem State.dropReads_drawn (n : SlotId) : (s.dropReads n).drawn = s.drawn := by
  simp only [State.dropReads, State.modSlot_drawn, State.freeWaiting_drawn, State.orphan_drawn]
@[simp] theorem State.dropReads_pending (n : SlotId) : (s.dropReads n).pending = s.pending := by
  simp only [State.dropReads, State.modSlot_pending, State.freeWaiting_pending, State.orphan_pending]

/-! ### issue -/

@[simp] theorem State.issue_slots (t : MemTag) (p : Participant) (inc : Half) (kind : AccessKind) (tag : RequesterTag)
    (addr : Addr) (beats : Nat) (data : List MaskedBeat) : (s.issue t p inc kind tag addr beats data).slots = s.slots := rfl
@[simp] theorem State.issue_sb (t : MemTag) (p : Participant) (inc : Half) (kind : AccessKind) (tag : RequesterTag)
    (addr : Addr) (beats : Nat) (data : List MaskedBeat) : (s.issue t p inc kind tag addr beats data).sb = s.sb := rfl
@[simp] theorem State.issue_ext (t : MemTag) (p : Participant) (inc : Half) (kind : AccessKind) (tag : RequesterTag)
    (addr : Addr) (beats : Nat) (data : List MaskedBeat) : (s.issue t p inc kind tag addr beats data).ext = s.ext := rfl
@[simp] theorem State.issue_scrub (t : MemTag) (p : Participant) (inc : Half) (kind : AccessKind) (tag : RequesterTag)
    (addr : Addr) (beats : Nat) (data : List MaskedBeat) : (s.issue t p inc kind tag addr beats data).scrub = s.scrub := rfl
@[simp] theorem State.issue_ctl (t : MemTag) (p : Participant) (inc : Half) (kind : AccessKind) (tag : RequesterTag)
    (addr : Addr) (beats : Nat) (data : List MaskedBeat) : (s.issue t p inc kind tag addr beats data).ctl = s.ctl := rfl
@[simp] theorem State.issue_ring (t : MemTag) (p : Participant) (inc : Half) (kind : AccessKind) (tag : RequesterTag)
    (addr : Addr) (beats : Nat) (data : List MaskedBeat) : (s.issue t p inc kind tag addr beats data).ring = s.ring := rfl
@[simp] theorem State.issue_params (t : MemTag) (p : Participant) (inc : Half) (kind : AccessKind) (tag : RequesterTag)
    (addr : Addr) (beats : Nat) (data : List MaskedBeat) : (s.issue t p inc kind tag addr beats data).params = s.params := rfl
@[simp] theorem State.issue_attachSel (t : MemTag) (p : Participant) (inc : Half) (kind : AccessKind) (tag : RequesterTag)
    (addr : Addr) (beats : Nat) (data : List MaskedBeat) : (s.issue t p inc kind tag addr beats data).attachSel = s.attachSel := rfl
@[simp] theorem State.issue_now (t : MemTag) (p : Participant) (inc : Half) (kind : AccessKind) (tag : RequesterTag)
    (addr : Addr) (beats : Nat) (data : List MaskedBeat) : (s.issue t p inc kind tag addr beats data).now = s.now := rfl
@[simp] theorem State.issue_drawn (t : MemTag) (p : Participant) (inc : Half) (kind : AccessKind) (tag : RequesterTag)
    (addr : Addr) (beats : Nat) (data : List MaskedBeat) : (s.issue t p inc kind tag addr beats data).drawn = s.drawn := rfl
@[simp] theorem State.issue_pending (t : MemTag) (p : Participant) (inc : Half) (kind : AccessKind) (tag : RequesterTag)
    (addr : Addr) (beats : Nat) (data : List MaskedBeat) : (s.issue t p inc kind tag addr beats data).pending = s.pending := rfl
@[simp] theorem State.issue_slot (t : MemTag) (p : Participant) (inc : Half) (kind : AccessKind) (tag : RequesterTag)
    (addr : Addr) (beats : Nat) (data : List MaskedBeat) (m : SlotId) : (s.issue t p inc kind tag addr beats data).slot m = s.slot m := rfl

/-! ### The slot and the entry that an update writes -/

/-- The slot that `modSlot` changes. -/
@[simp] theorem State.modSlot_slot_self (n : SlotId) (f : Slot → Slot) : (s.modSlot n f).slot n = f (s.slot n) := by
  simp [State.modSlot, State.slot, Vector.get_eq_getElem]

/-- `modSlot` leaves the other slots. -/
theorem State.modSlot_slot_of_ne (n m : SlotId) (f : Slot → Slot) (h : m ≠ n) :
    (s.modSlot n f).slot m = s.slot m := by
  have h' : n.val ≠ m.val := fun e => h (Fin.ext e.symm)
  simp [State.modSlot, State.slot, Vector.get_eq_getElem, h']

/-- `modSlot` at any slot. -/
theorem State.modSlot_slot (n m : SlotId) (f : Slot → Slot) :
    (s.modSlot n f).slot m = if m = n then f (s.slot n) else s.slot m := by
  by_cases h : m = n
  · subst h; simp
  · simp [h, State.modSlot_slot_of_ne]

/-- The entry that `setEntry` writes. -/
@[simp] theorem State.setEntry_entry_self (t : MemTag) (e : Entry) : (s.setEntry t e).entry t = e := by
  simp [State.setEntry, State.entry, Vector.get_eq_getElem]

/-- `setEntry` leaves the other entries. -/
theorem State.setEntry_entry_of_ne (t k : MemTag) (e : Entry) (h : k ≠ t) :
    (s.setEntry t e).entry k = s.entry k := by
  have h' : t.val ≠ k.val := fun e => h (Fin.ext e.symm)
  simp [State.setEntry, State.entry, Vector.get_eq_getElem, h']

/-- `setEntry` at any entry. -/
theorem State.setEntry_entry (t k : MemTag) (e : Entry) :
    (s.setEntry t e).entry k = if k = t then e else s.entry k := by
  by_cases h : k = t
  · subst h; simp
  · simp [h, State.setEntry_entry_of_ne]

/-- The entry that `freeEntry` frees. -/
@[simp] theorem State.freeEntry_entry_self (t : MemTag) : (s.freeEntry t).entry t = Entry.free := by
  simp [State.freeEntry, State.setEntry, State.entry, Vector.get_eq_getElem]

/-- `freeEntry` leaves the other entries. -/
theorem State.freeEntry_entry_of_ne (t k : MemTag) (h : k ≠ t) : (s.freeEntry t).entry k = s.entry k :=
  State.setEntry_entry_of_ne s t k Entry.free h

/-- Every entry after the order to orphan. -/
@[simp] theorem State.orphan_entry (n : SlotId) (sel : AccessKind → Bool) (k : MemTag) :
    (s.orphan n sel).entry k = (s.entry k).orphaned n (s.slot n).incarnation sel := by
  simp [State.orphan, State.entry, Vector.get_eq_getElem]

/-- Every entry after the order to free waiting entries. -/
@[simp] theorem State.freeWaiting_entry (n : SlotId) (k : MemTag) :
    (s.freeWaiting n).entry k =
      if (s.entry k).freedWaiting n (s.slot n).incarnation then Entry.free else s.entry k := by
  simp [State.freeWaiting, State.entry, Vector.get_eq_getElem]

/-- The entry that a grant takes. -/
@[simp] theorem State.issue_entry_self (t : MemTag) (p : Participant) (inc : Half) (kind : AccessKind)
    (tag : RequesterTag) (addr : Addr) (beats : Nat) (data : List MaskedBeat) :
    (s.issue t p inc kind tag addr beats data).entry t =
      ⟨.issued, p, inc, kind, tag, addr, beats, s.now + s.trk.timeout, .none⟩ := by
  simp [State.issue, State.entry, Vector.get_eq_getElem]

/-- A grant leaves the other entries. -/
theorem State.issue_entry_of_ne (t k : MemTag) (p : Participant) (inc : Half) (kind : AccessKind)
    (tag : RequesterTag) (addr : Addr) (beats : Nat) (data : List MaskedBeat) (h : k ≠ t) :
    (s.issue t p inc kind tag addr beats data).entry k = s.entry k := by
  have h' : t.val ≠ k.val := fun e => h (Fin.ext e.symm)
  simp [State.issue, State.entry, Vector.get_eq_getElem, h']

/-! ### The Ring Interface -/

/-- `modSlot` at most marks the slot's unit. -/
theorem State.modSlot_ring (n : SlotId) (f : Slot → Slot) : ringNoticed n s.ring (s.modSlot n f).ring := by
  unfold State.modSlot ringNoticed
  split <;> simp

@[simp] theorem Ring.markStale_state (r : Ring) (u : StatusUnit) : (r.markStale u).state = r.state := by
  unfold Ring.markStale; split <;> rfl
@[simp] theorem Ring.markStale_reqBase (r : Ring) (u : StatusUnit) : (r.markStale u).reqBase = r.reqBase := by
  unfold Ring.markStale; split <;> rfl
@[simp] theorem Ring.markStale_reqSize (r : Ring) (u : StatusUnit) : (r.markStale u).reqSize = r.reqSize := by
  unfold Ring.markStale; split <;> rfl
@[simp] theorem Ring.markStale_respBase (r : Ring) (u : StatusUnit) : (r.markStale u).respBase = r.respBase := by
  unfold Ring.markStale; split <;> rfl
@[simp] theorem Ring.markStale_respSize (r : Ring) (u : StatusUnit) : (r.markStale u).respSize = r.respSize := by
  unfold Ring.markStale; split <;> rfl
@[simp] theorem Ring.markStale_statusBase (r : Ring) (u : StatusUnit) : (r.markStale u).statusBase = r.statusBase := by
  unfold Ring.markStale; split <;> rfl
@[simp] theorem Ring.markStale_consumer (r : Ring) (u : StatusUnit) : (r.markStale u).consumer = r.consumer := by
  unfold Ring.markStale; split <;> rfl
@[simp] theorem Ring.markStale_producer (r : Ring) (u : StatusUnit) : (r.markStale u).producer = r.producer := by
  unfold Ring.markStale; split <;> rfl
@[simp] theorem Ring.markStale_mirror (r : Ring) (u : StatusUnit) : (r.markStale u).mirror = r.mirror := by
  unfold Ring.markStale; split <;> rfl
@[simp] theorem Ring.markStale_held (r : Ring) (u : StatusUnit) : (r.markStale u).held = r.held := by
  unfold Ring.markStale; split <;> rfl
@[simp] theorem Ring.markStale_exec (r : Ring) (u : StatusUnit) : (r.markStale u).exec = r.exec := by
  unfold Ring.markStale; split <;> rfl
@[simp] theorem Ring.markStale_pend (r : Ring) (u : StatusUnit) : (r.markStale u).pend = r.pend := by
  unfold Ring.markStale; split <;> rfl
@[simp] theorem Ring.markStale_reserved (r : Ring) (u : StatusUnit) : (r.markStale u).reserved = r.reserved := by
  unfold Ring.markStale; split <;> rfl
@[simp] theorem Ring.markStale_queue (r : Ring) (u : StatusUnit) : (r.markStale u).queue = r.queue := by
  unfold Ring.markStale; split <;> rfl
@[simp] theorem Ring.markStale_waiting (r : Ring) (u : StatusUnit) : (r.markStale u).waiting = r.waiting := by
  unfold Ring.markStale; split <;> rfl
@[simp] theorem Ring.markStale_lost (r : Ring) (u : StatusUnit) : (r.markStale u).lost = r.lost := by
  unfold Ring.markStale; split <;> rfl
@[simp] theorem Ring.markStale_attn (r : Ring) (u : StatusUnit) : (r.markStale u).attn = r.attn := by
  unfold Ring.markStale; split <;> rfl
@[simp] theorem Ring.postEvent_state (r : Ring) (e : Event) : (r.postEvent e).state = r.state := by
  unfold Ring.postEvent; split <;> (try split) <;> simp
@[simp] theorem Ring.postEvent_reqBase (r : Ring) (e : Event) : (r.postEvent e).reqBase = r.reqBase := by
  unfold Ring.postEvent; split <;> (try split) <;> simp
@[simp] theorem Ring.postEvent_reqSize (r : Ring) (e : Event) : (r.postEvent e).reqSize = r.reqSize := by
  unfold Ring.postEvent; split <;> (try split) <;> simp
@[simp] theorem Ring.postEvent_respBase (r : Ring) (e : Event) : (r.postEvent e).respBase = r.respBase := by
  unfold Ring.postEvent; split <;> (try split) <;> simp
@[simp] theorem Ring.postEvent_respSize (r : Ring) (e : Event) : (r.postEvent e).respSize = r.respSize := by
  unfold Ring.postEvent; split <;> (try split) <;> simp
@[simp] theorem Ring.postEvent_statusBase (r : Ring) (e : Event) : (r.postEvent e).statusBase = r.statusBase := by
  unfold Ring.postEvent; split <;> (try split) <;> simp
@[simp] theorem Ring.postEvent_consumer (r : Ring) (e : Event) : (r.postEvent e).consumer = r.consumer := by
  unfold Ring.postEvent; split <;> (try split) <;> simp
@[simp] theorem Ring.postEvent_producer (r : Ring) (e : Event) : (r.postEvent e).producer = r.producer := by
  unfold Ring.postEvent; split <;> (try split) <;> simp
@[simp] theorem Ring.postEvent_mirror (r : Ring) (e : Event) : (r.postEvent e).mirror = r.mirror := by
  unfold Ring.postEvent; split <;> (try split) <;> simp
@[simp] theorem Ring.postEvent_held (r : Ring) (e : Event) : (r.postEvent e).held = r.held := by
  unfold Ring.postEvent; split <;> (try split) <;> simp
@[simp] theorem Ring.postEvent_exec (r : Ring) (e : Event) : (r.postEvent e).exec = r.exec := by
  unfold Ring.postEvent; split <;> (try split) <;> simp
@[simp] theorem Ring.postEvent_reserved (r : Ring) (e : Event) : (r.postEvent e).reserved = r.reserved := by
  unfold Ring.postEvent; split <;> (try split) <;> simp
@[simp] theorem Ring.postEvent_queue (r : Ring) (e : Event) : (r.postEvent e).queue = r.queue := by
  unfold Ring.postEvent; split <;> (try split) <;> simp
@[simp] theorem Ring.postEvent_waiting (r : Ring) (e : Event) : (r.postEvent e).waiting = r.waiting := by
  unfold Ring.postEvent; split <;> (try split) <;> simp
@[simp] theorem Ring.postEvent_attn (r : Ring) (e : Event) : (r.postEvent e).attn = r.attn := by
  unfold Ring.postEvent; split <;> (try split) <;> simp
@[simp] theorem Ring.respond_state (r : Ring) (a : Response) : (r.respond a).state = r.state := rfl
@[simp] theorem Ring.respond_reqBase (r : Ring) (a : Response) : (r.respond a).reqBase = r.reqBase := rfl
@[simp] theorem Ring.respond_reqSize (r : Ring) (a : Response) : (r.respond a).reqSize = r.reqSize := rfl
@[simp] theorem Ring.respond_respBase (r : Ring) (a : Response) : (r.respond a).respBase = r.respBase := rfl
@[simp] theorem Ring.respond_respSize (r : Ring) (a : Response) : (r.respond a).respSize = r.respSize := rfl
@[simp] theorem Ring.respond_statusBase (r : Ring) (a : Response) : (r.respond a).statusBase = r.statusBase := rfl
@[simp] theorem Ring.respond_consumer (r : Ring) (a : Response) : (r.respond a).consumer = r.consumer := rfl
@[simp] theorem Ring.respond_producer (r : Ring) (a : Response) : (r.respond a).producer = r.producer := rfl
@[simp] theorem Ring.respond_mirror (r : Ring) (a : Response) : (r.respond a).mirror = r.mirror := rfl
@[simp] theorem Ring.respond_held (r : Ring) (a : Response) : (r.respond a).held = r.held := rfl
@[simp] theorem Ring.respond_exec (r : Ring) (a : Response) : (r.respond a).exec = r.exec := rfl
@[simp] theorem Ring.respond_queue (r : Ring) (a : Response) : (r.respond a).queue = r.queue := rfl
@[simp] theorem Ring.respond_waiting (r : Ring) (a : Response) : (r.respond a).waiting = r.waiting := rfl
@[simp] theorem Ring.respond_stale (r : Ring) (a : Response) : (r.respond a).stale = r.stale := rfl
@[simp] theorem Ring.respond_lost (r : Ring) (a : Response) : (r.respond a).lost = r.lost := rfl
@[simp] theorem Ring.respond_attn (r : Ring) (a : Response) : (r.respond a).attn = r.attn := rfl
@[simp] theorem State.modSlot_ring_state (n : SlotId) (g : Slot → Slot) : (s.modSlot n g).ring.state = s.ring.state := by
  unfold State.modSlot; simp only []; split <;> simp
@[simp] theorem State.modSlot_ring_reqBase (n : SlotId) (g : Slot → Slot) : (s.modSlot n g).ring.reqBase = s.ring.reqBase := by
  unfold State.modSlot; simp only []; split <;> simp
@[simp] theorem State.modSlot_ring_reqSize (n : SlotId) (g : Slot → Slot) : (s.modSlot n g).ring.reqSize = s.ring.reqSize := by
  unfold State.modSlot; simp only []; split <;> simp
@[simp] theorem State.modSlot_ring_respBase (n : SlotId) (g : Slot → Slot) : (s.modSlot n g).ring.respBase = s.ring.respBase := by
  unfold State.modSlot; simp only []; split <;> simp
@[simp] theorem State.modSlot_ring_respSize (n : SlotId) (g : Slot → Slot) : (s.modSlot n g).ring.respSize = s.ring.respSize := by
  unfold State.modSlot; simp only []; split <;> simp
@[simp] theorem State.modSlot_ring_statusBase (n : SlotId) (g : Slot → Slot) : (s.modSlot n g).ring.statusBase = s.ring.statusBase := by
  unfold State.modSlot; simp only []; split <;> simp
@[simp] theorem State.modSlot_ring_consumer (n : SlotId) (g : Slot → Slot) : (s.modSlot n g).ring.consumer = s.ring.consumer := by
  unfold State.modSlot; simp only []; split <;> simp
@[simp] theorem State.modSlot_ring_producer (n : SlotId) (g : Slot → Slot) : (s.modSlot n g).ring.producer = s.ring.producer := by
  unfold State.modSlot; simp only []; split <;> simp
@[simp] theorem State.modSlot_ring_mirror (n : SlotId) (g : Slot → Slot) : (s.modSlot n g).ring.mirror = s.ring.mirror := by
  unfold State.modSlot; simp only []; split <;> simp
@[simp] theorem State.modSlot_ring_held (n : SlotId) (g : Slot → Slot) : (s.modSlot n g).ring.held = s.ring.held := by
  unfold State.modSlot; simp only []; split <;> simp
@[simp] theorem State.modSlot_ring_exec (n : SlotId) (g : Slot → Slot) : (s.modSlot n g).ring.exec = s.ring.exec := by
  unfold State.modSlot; simp only []; split <;> simp
@[simp] theorem State.modSlot_ring_pend (n : SlotId) (g : Slot → Slot) : (s.modSlot n g).ring.pend = s.ring.pend := by
  unfold State.modSlot; simp only []; split <;> simp
@[simp] theorem State.modSlot_ring_reserved (n : SlotId) (g : Slot → Slot) : (s.modSlot n g).ring.reserved = s.ring.reserved := by
  unfold State.modSlot; simp only []; split <;> simp
@[simp] theorem State.modSlot_ring_queue (n : SlotId) (g : Slot → Slot) : (s.modSlot n g).ring.queue = s.ring.queue := by
  unfold State.modSlot; simp only []; split <;> simp
@[simp] theorem State.modSlot_ring_waiting (n : SlotId) (g : Slot → Slot) : (s.modSlot n g).ring.waiting = s.ring.waiting := by
  unfold State.modSlot; simp only []; split <;> simp
@[simp] theorem State.modSlot_ring_lost (n : SlotId) (g : Slot → Slot) : (s.modSlot n g).ring.lost = s.ring.lost := by
  unfold State.modSlot; simp only []; split <;> simp
@[simp] theorem State.modSlot_ring_attn (n : SlotId) (g : Slot → Slot) : (s.modSlot n g).ring.attn = s.ring.attn := by
  unfold State.modSlot; simp only []; split <;> simp

end Sys2Proof.Machine
end

