-- ==== Sys2Proof/Laws/Sideband.lean ====
section
/-! SUPPORT. The Sideband Engine's operations: which parts of the state they can change. -/

namespace Sys2Proof.Machine

@[simp] theorem State.startJob_slots (s : State) : (s.startJob).slots = s.slots := by
  unfold State.startJob; split <;> rfl
@[simp] theorem State.startJob_trk (s : State) : (s.startJob).trk = s.trk := by
  unfold State.startJob; split <;> rfl
@[simp] theorem State.startJob_ext (s : State) : (s.startJob).ext = s.ext := by
  unfold State.startJob; split <;> rfl
@[simp] theorem State.startJob_scrub (s : State) : (s.startJob).scrub = s.scrub := by
  unfold State.startJob; split <;> rfl
@[simp] theorem State.startJob_ctl (s : State) : (s.startJob).ctl = s.ctl := by
  unfold State.startJob; split <;> rfl
@[simp] theorem State.startJob_params (s : State) : (s.startJob).params = s.params := by
  unfold State.startJob; split <;> rfl
@[simp] theorem State.startJob_attachSel (s : State) : (s.startJob).attachSel = s.attachSel := by
  unfold State.startJob; split <;> rfl
@[simp] theorem State.startJob_now (s : State) : (s.startJob).now = s.now := by
  unfold State.startJob; split <;> rfl
@[simp] theorem State.startJob_drawn (s : State) : (s.startJob).drawn = s.drawn := by
  unfold State.startJob; split <;> rfl
@[simp] theorem State.startJob_pending (s : State) : (s.startJob).pending = s.pending := by
  unfold State.startJob; split <;> rfl
@[simp] theorem State.startJob_ring (s : State) : (s.startJob).ring = s.ring := by
  unfold State.startJob; split <;> rfl
@[simp] theorem State.nextJob_slots (s : State) : (s.nextJob).slots = s.slots := by
  simp [State.nextJob]
@[simp] theorem State.nextJob_trk (s : State) : (s.nextJob).trk = s.trk := by
  simp [State.nextJob]
@[simp] theorem State.nextJob_ext (s : State) : (s.nextJob).ext = s.ext := by
  simp [State.nextJob]
@[simp] theorem State.nextJob_scrub (s : State) : (s.nextJob).scrub = s.scrub := by
  simp [State.nextJob]
@[simp] theorem State.nextJob_ctl (s : State) : (s.nextJob).ctl = s.ctl := by
  simp [State.nextJob]
@[simp] theorem State.nextJob_params (s : State) : (s.nextJob).params = s.params := by
  simp [State.nextJob]
@[simp] theorem State.nextJob_attachSel (s : State) : (s.nextJob).attachSel = s.attachSel := by
  simp [State.nextJob]
@[simp] theorem State.nextJob_now (s : State) : (s.nextJob).now = s.now := by
  simp [State.nextJob]
@[simp] theorem State.nextJob_drawn (s : State) : (s.nextJob).drawn = s.drawn := by
  simp [State.nextJob]
@[simp] theorem State.nextJob_pending (s : State) : (s.nextJob).pending = s.pending := by
  simp [State.nextJob]
@[simp] theorem State.nextJob_ring (s : State) : (s.nextJob).ring = s.ring := by
  simp [State.nextJob]
@[simp] theorem State.cancelJob_slots (s : State) (j : Job) : (s.cancelJob j).slots = s.slots := by
  unfold State.cancelJob; split <;> rfl
@[simp] theorem State.cancelJob_trk (s : State) (j : Job) : (s.cancelJob j).trk = s.trk := by
  unfold State.cancelJob; split <;> rfl
@[simp] theorem State.cancelJob_ext (s : State) (j : Job) : (s.cancelJob j).ext = s.ext := by
  unfold State.cancelJob; split <;> rfl
@[simp] theorem State.cancelJob_scrub (s : State) (j : Job) : (s.cancelJob j).scrub = s.scrub := by
  unfold State.cancelJob; split <;> rfl
@[simp] theorem State.cancelJob_ctl (s : State) (j : Job) : (s.cancelJob j).ctl = s.ctl := by
  unfold State.cancelJob; split <;> rfl
@[simp] theorem State.cancelJob_params (s : State) (j : Job) : (s.cancelJob j).params = s.params := by
  unfold State.cancelJob; split <;> rfl
@[simp] theorem State.cancelJob_attachSel (s : State) (j : Job) : (s.cancelJob j).attachSel = s.attachSel := by
  unfold State.cancelJob; split <;> rfl
@[simp] theorem State.cancelJob_now (s : State) (j : Job) : (s.cancelJob j).now = s.now := by
  unfold State.cancelJob; split <;> rfl
@[simp] theorem State.cancelJob_drawn (s : State) (j : Job) : (s.cancelJob j).drawn = s.drawn := by
  unfold State.cancelJob; split <;> rfl
@[simp] theorem State.cancelJob_pending (s : State) (j : Job) : (s.cancelJob j).pending = s.pending := by
  unfold State.cancelJob; split <;> rfl
@[simp] theorem State.cancelJob_sb (s : State) (j : Job) : (s.cancelJob j).sb = s.sb := by
  unfold State.cancelJob; split <;> rfl
theorem State.foldl_cancelJob_slots (js : List Job) (s : State) : (js.foldl State.cancelJob s).slots = s.slots := by
  induction js generalizing s with
  | nil => rfl
  | cons j js ih => simp [ih]
theorem State.foldl_cancelJob_trk (js : List Job) (s : State) : (js.foldl State.cancelJob s).trk = s.trk := by
  induction js generalizing s with
  | nil => rfl
  | cons j js ih => simp [ih]
theorem State.foldl_cancelJob_ext (js : List Job) (s : State) : (js.foldl State.cancelJob s).ext = s.ext := by
  induction js generalizing s with
  | nil => rfl
  | cons j js ih => simp [ih]
theorem State.foldl_cancelJob_scrub (js : List Job) (s : State) : (js.foldl State.cancelJob s).scrub = s.scrub := by
  induction js generalizing s with
  | nil => rfl
  | cons j js ih => simp [ih]
theorem State.foldl_cancelJob_ctl (js : List Job) (s : State) : (js.foldl State.cancelJob s).ctl = s.ctl := by
  induction js generalizing s with
  | nil => rfl
  | cons j js ih => simp [ih]
theorem State.foldl_cancelJob_params (js : List Job) (s : State) : (js.foldl State.cancelJob s).params = s.params := by
  induction js generalizing s with
  | nil => rfl
  | cons j js ih => simp [ih]
theorem State.foldl_cancelJob_attachSel (js : List Job) (s : State) : (js.foldl State.cancelJob s).attachSel = s.attachSel := by
  induction js generalizing s with
  | nil => rfl
  | cons j js ih => simp [ih]
theorem State.foldl_cancelJob_now (js : List Job) (s : State) : (js.foldl State.cancelJob s).now = s.now := by
  induction js generalizing s with
  | nil => rfl
  | cons j js ih => simp [ih]
theorem State.foldl_cancelJob_drawn (js : List Job) (s : State) : (js.foldl State.cancelJob s).drawn = s.drawn := by
  induction js generalizing s with
  | nil => rfl
  | cons j js ih => simp [ih]
theorem State.foldl_cancelJob_pending (js : List Job) (s : State) : (js.foldl State.cancelJob s).pending = s.pending := by
  induction js generalizing s with
  | nil => rfl
  | cons j js ih => simp [ih]
theorem State.foldl_cancelJob_sb (js : List Job) (s : State) : (js.foldl State.cancelJob s).sb = s.sb := by
  induction js generalizing s with
  | nil => rfl
  | cons j js ih => simp [ih]
@[simp] theorem State.cancelJobs_slots (s : State) (n : SlotId) : (s.cancelJobs n).slots = s.slots := by
  simp [State.cancelJobs, State.foldl_cancelJob_slots]
@[simp] theorem State.cancelJobs_trk (s : State) (n : SlotId) : (s.cancelJobs n).trk = s.trk := by
  simp [State.cancelJobs, State.foldl_cancelJob_trk]
@[simp] theorem State.cancelJobs_ext (s : State) (n : SlotId) : (s.cancelJobs n).ext = s.ext := by
  simp [State.cancelJobs, State.foldl_cancelJob_ext]
@[simp] theorem State.cancelJobs_scrub (s : State) (n : SlotId) : (s.cancelJobs n).scrub = s.scrub := by
  simp [State.cancelJobs, State.foldl_cancelJob_scrub]
@[simp] theorem State.cancelJobs_ctl (s : State) (n : SlotId) : (s.cancelJobs n).ctl = s.ctl := by
  simp [State.cancelJobs, State.foldl_cancelJob_ctl]
@[simp] theorem State.cancelJobs_params (s : State) (n : SlotId) : (s.cancelJobs n).params = s.params := by
  simp [State.cancelJobs, State.foldl_cancelJob_params]
@[simp] theorem State.cancelJobs_attachSel (s : State) (n : SlotId) : (s.cancelJobs n).attachSel = s.attachSel := by
  simp [State.cancelJobs, State.foldl_cancelJob_attachSel]
@[simp] theorem State.cancelJobs_now (s : State) (n : SlotId) : (s.cancelJobs n).now = s.now := by
  simp [State.cancelJobs, State.foldl_cancelJob_now]
@[simp] theorem State.cancelJobs_drawn (s : State) (n : SlotId) : (s.cancelJobs n).drawn = s.drawn := by
  simp [State.cancelJobs, State.foldl_cancelJob_drawn]
@[simp] theorem State.cancelJobs_pending (s : State) (n : SlotId) : (s.cancelJobs n).pending = s.pending := by
  simp [State.cancelJobs, State.foldl_cancelJob_pending]
@[simp] theorem State.powerOff_trk (s : State) (n : SlotId) : (s.powerOff n).trk = s.trk := by
  simp [State.powerOff]
@[simp] theorem State.powerOff_ext (s : State) (n : SlotId) : (s.powerOff n).ext = s.ext := by
  simp [State.powerOff]
@[simp] theorem State.powerOff_scrub (s : State) (n : SlotId) : (s.powerOff n).scrub = s.scrub := by
  simp [State.powerOff]
@[simp] theorem State.powerOff_ctl (s : State) (n : SlotId) : (s.powerOff n).ctl = s.ctl := by
  simp [State.powerOff]
@[simp] theorem State.powerOff_params (s : State) (n : SlotId) : (s.powerOff n).params = s.params := by
  simp [State.powerOff]
@[simp] theorem State.powerOff_attachSel (s : State) (n : SlotId) : (s.powerOff n).attachSel = s.attachSel := by
  simp [State.powerOff]
@[simp] theorem State.powerOff_now (s : State) (n : SlotId) : (s.powerOff n).now = s.now := by
  simp [State.powerOff]
@[simp] theorem State.powerOff_drawn (s : State) (n : SlotId) : (s.powerOff n).drawn = s.drawn := by
  simp [State.powerOff]
@[simp] theorem State.powerOff_pending (s : State) (n : SlotId) : (s.powerOff n).pending = s.pending := by
  simp [State.powerOff]
@[simp] theorem State.handIdentity_slots (s : State) (n : SlotId) : (s.handIdentity n).slots = s.slots := by
  simp [State.handIdentity]
@[simp] theorem State.handIdentity_trk (s : State) (n : SlotId) : (s.handIdentity n).trk = s.trk := by
  simp [State.handIdentity]
@[simp] theorem State.handIdentity_ext (s : State) (n : SlotId) : (s.handIdentity n).ext = s.ext := by
  simp [State.handIdentity]
@[simp] theorem State.handIdentity_scrub (s : State) (n : SlotId) : (s.handIdentity n).scrub = s.scrub := by
  simp [State.handIdentity]
@[simp] theorem State.handIdentity_ctl (s : State) (n : SlotId) : (s.handIdentity n).ctl = s.ctl := by
  simp [State.handIdentity]
@[simp] theorem State.handIdentity_params (s : State) (n : SlotId) : (s.handIdentity n).params = s.params := by
  simp [State.handIdentity]
@[simp] theorem State.handIdentity_attachSel (s : State) (n : SlotId) : (s.handIdentity n).attachSel = s.attachSel := by
  simp [State.handIdentity]
@[simp] theorem State.handIdentity_now (s : State) (n : SlotId) : (s.handIdentity n).now = s.now := by
  simp [State.handIdentity]
@[simp] theorem State.handIdentity_drawn (s : State) (n : SlotId) : (s.handIdentity n).drawn = s.drawn := by
  simp [State.handIdentity]
@[simp] theorem State.handIdentity_pending (s : State) (n : SlotId) : (s.handIdentity n).pending = s.pending := by
  simp [State.handIdentity]
@[simp] theorem State.handIdentity_ring (s : State) (n : SlotId) : (s.handIdentity n).ring = s.ring := by
  simp [State.handIdentity]

/-- A slot after operations that leave all slots. -/
theorem State.slot_of_slots_eq (s t : State) (h : t.slots = s.slots) (n : SlotId) : t.slot n = s.slot n := by
  simp [State.slot, h]

/-- A tracker entry after operations that leave the tracker. -/
theorem State.entry_of_trk_eq (s t : State) (h : t.trk = s.trk) (k : MemTag) : t.entry k = s.entry k := by
  simp [State.entry, h]

@[simp] theorem State.startJob_slot (s : State) (n : SlotId) : s.startJob.slot n = s.slot n :=
  State.slot_of_slots_eq _ _ (by simp) n
@[simp] theorem State.nextJob_slot (s : State) (n : SlotId) : s.nextJob.slot n = s.slot n :=
  State.slot_of_slots_eq _ _ (by simp) n
@[simp] theorem State.cancelJobs_slot (s : State) (n m : SlotId) : (s.cancelJobs n).slot m = s.slot m :=
  State.slot_of_slots_eq _ _ (by simp) m
@[simp] theorem State.handIdentity_slot (s : State) (n m : SlotId) : (s.handIdentity n).slot m = s.slot m :=
  State.slot_of_slots_eq _ _ (by simp) m
@[simp] theorem State.cancelJobs_entry (s : State) (n : SlotId) (k : MemTag) :
    (s.cancelJobs n).entry k = s.entry k := State.entry_of_trk_eq _ _ (by simp) k
@[simp] theorem State.powerOff_entry (s : State) (n : SlotId) (k : MemTag) :
    (s.powerOff n).entry k = s.entry k := State.entry_of_trk_eq _ _ (by simp) k
@[simp] theorem State.handIdentity_entry (s : State) (n : SlotId) (k : MemTag) :
    (s.handIdentity n).entry k = s.entry k := State.entry_of_trk_eq _ _ (by simp) k

/-- The slots after PWR_EN is deasserted. -/
theorem State.powerOff_slot (s : State) (n m : SlotId) :
    (s.powerOff n).slot m =
      if m = n then { s.slot n with pwrEn := false, sbdatLow := false } else s.slot m := by
  simp [State.powerOff, State.modSlot_slot]

/-! ## The Ring Interface under cancellation: only the answers and their places change -/

/-- What answering can change of the Ring Interface. -/
theorem State.cancelJob_ring (s : State) (j : Job) :
    (s.cancelJob j).ring =
      { s.ring with pend := (s.cancelJob j).ring.pend, reserved := (s.cancelJob j).ring.reserved } := by
  unfold State.cancelJob; split <;> rfl

/-- Cancelled jobs change the pending response queue and the reserved places alone. -/
theorem State.foldl_cancelJob_ring (js : List Job) (s : State) :
    (js.foldl State.cancelJob s).ring =
      { s.ring with
        pend := (js.foldl State.cancelJob s).ring.pend, reserved := (js.foldl State.cancelJob s).ring.reserved } := by
  induction js generalizing s with
  | nil => rfl
  | cons j js ih =>
    rw [List.foldl_cons, ih]
    rw [State.cancelJob_ring]

/-- The order to cancel changes the pending response queue and the reserved places alone. -/
theorem State.cancelJobs_ring (s : State) (n : SlotId) :
    (s.cancelJobs n).ring =
      { s.ring with pend := (s.cancelJobs n).ring.pend, reserved := (s.cancelJobs n).ring.reserved } := by
  unfold State.cancelJobs
  simp only [State.nextJob_ring]
  rw [State.foldl_cancelJob_ring]

/-! ## The engine's jobs: what the operations make of them (R32, R33, R38) -/

/-- Filling gives the free places to the first slots that wait. -/
theorem fillJobs_eq (q : List Job) (ns : List SlotId) :
    fillJobs q ns = (q ++ (ns.take (16 - q.length)).map (fun m => .identity m []), ns.drop (16 - q.length)) := by
  induction ns generalizing q with
  | nil => simp [fillJobs]
  | cons n ns ih =>
    unfold fillJobs
    by_cases h : q.length < 16
    · obtain ⟨k, hk⟩ : ∃ k, 16 - q.length = k + 1 := ⟨15 - q.length, by omega⟩
      have hk2 : 16 - (q ++ [Job.identity n []]).length = k := by simp; omega
      rw [if_pos h, ih, hk2, hk]
      simp
    · have hk : 16 - q.length = 0 := by omega
      rw [if_neg h, hk]
      simp

/-- Filling, as the statements say it (R33). -/
theorem Sideband.fill_eq (sb : Sideband) : sb.fill = sb.filled := by
  simp [Sideband.fill, Sideband.filled, fillJobs_eq]

/-- The start of a job, as the statements say it (R32). -/
theorem State.startJob_sb (s : State) : s.startJob.sb = s.takesHead s.sb := by
  unfold State.startJob State.takesHead
  split <;> simp_all [Sideband.fill_eq, Sideband.startAccess]

/-- What the engine takes depends on the moment and the lines alone. -/
theorem State.takesHead_congr {s t : State} (h : ∀ m, (t.slot m).sbdatLow = (s.slot m).sbdatLow) (k : t.now = s.now)
    (sb : Sideband) : t.takesHead sb = s.takesHead sb := by
  unfold State.takesHead; split <;> simp [h, k]

/-- `goesOn` likewise. -/
theorem State.goesOn_congr {s t : State} (h : ∀ m, (t.slot m).sbdatLow = (s.slot m).sbdatLow) (k : t.now = s.now)
    (sb : Sideband) : t.goesOn sb = s.goesOn sb := State.takesHead_congr h k _

/-- The end of a job, as the statements say it (R32). -/
theorem State.nextJob_sb (s : State) : s.nextJob.sb = s.goesOn s.sb := by
  simp only [State.nextJob, State.startJob_sb, Sideband.fill_eq]
  rfl

/-- The end of a job changes the engine alone (R32). -/
theorem State.nextJob_eq (s : State) : s.nextJob = { s with sb := s.goesOn s.sb } := by
  rw [← State.nextJob_sb]
  unfold State.nextJob State.startJob
  split <;> rfl

/-- The start of a job changes the engine alone (R32). -/
theorem State.startJob_eq (s : State) : s.startJob = { s with sb := s.takesHead s.sb } := by
  rw [← State.startJob_sb]
  unfold State.startJob
  split <;> rfl

/-- A slot's jobs dropped, as the statements say it (R38). -/
theorem Sideband.dropJobs_eq (sb : Sideband) (n : SlotId) : sb.dropJobs n = sb.without n := by
  unfold Sideband.dropJobs Sideband.without
  have e1 : (fun j : Job => j.slot != n) = fun j => decide (j.slot ≠ n) := by funext j; simp [bne, beq_eq_decide]
  have e2 : (fun m : SlotId => m != n) = fun m => decide (m ≠ n) := by funext j; simp [bne, beq_eq_decide]
  simp only [e1, e2]
  cases h : sb.running with
  | none => simp
  | some j => by_cases hj : j.slot = n <;> simp [hj, Sideband.idle, Sideband.jobEnded]

/-- The order to cancel, as the statements say it (R38). -/
theorem State.cancelJobs_sb (s : State) (n : SlotId) : (s.cancelJobs n).sb = s.jobsCancelled n := by
  simp only [State.cancelJobs, State.nextJob_sb, State.foldl_cancelJob_sb, Sideband.dropJobs_eq]
  exact State.goesOn_congr (fun m => by simp [State.slot, State.foldl_cancelJob_slots])
    (by simp [State.foldl_cancelJob_now]) _

/-- Every free place is given, and no head waits while no job runs. -/
def Sideband.settled (sb : Sideband) : Prop :=
  (sb.waiting = [] ∨ 16 ≤ sb.queue.length) ∧ (sb.running = none → sb.queue = [])

/-- Filling leaves no free place to a slot that waits. -/
theorem Sideband.filled_full (sb : Sideband) : sb.filled.waiting = [] ∨ 16 ≤ sb.filled.queue.length := by
  simp only [Sideband.filled, List.drop_eq_nil_iff, List.length_append, List.length_map, List.length_take]
  omega

/-- An engine with no free place, or with no slot that waits, is as it is after filling. -/
theorem Sideband.filled_self {sb : Sideband} (h : sb.waiting = [] ∨ 16 ≤ sb.queue.length) : sb.filled = sb := by
  rcases h with h | h
  · cases sb; simp at h; subst h; simp [Sideband.filled]
  · have : 16 - sb.queue.length = 0 := by omega
    cases sb; simp [Sideband.filled] at *; simp [this]

/-- A job running, or an empty queue, and nothing is taken. -/
theorem State.takesHead_self (s : State) {sb : Sideband} (h : sb.running = none → sb.queue = []) :
    s.takesHead sb = sb := by
  unfold State.takesHead; split
  · rename_i h1 h2; simp [h h1] at h2
  all_goals rfl

/-- After the engine has gone on it is settled. -/
theorem State.settled_goesOn (s : State) (sb : Sideband) : (s.goesOn sb).settled := by
  unfold State.goesOn State.takesHead
  split
  · exact ⟨Sideband.filled_full { sb.filled with queue := _ }, by simp⟩
  · rename_i h; exact ⟨sb.filled_full, fun _ => h⟩
  · rename_i h; exact ⟨sb.filled_full, by simp [h]⟩

/-- A settled engine has nothing to go on with. -/
theorem State.goesOn_self (s : State) {sb : Sideband} (h : sb.settled) : s.goesOn sb = sb := by
  rw [State.goesOn, Sideband.filled_self h.1, State.takesHead_self s h.2]

/-- An engine without jobs of a slot loses none at a cancellation. -/
theorem Sideband.without_self {sb : Sideband} {n : SlotId} (h : sb.noJobs n) : sb.without n = sb := by
  obtain ⟨h1, h2⟩ := h
  have e1 : sb.queue.filter (fun j => decide (j.slot ≠ n)) = sb.queue :=
    List.filter_eq_self.2 fun j hj => by simpa using h1 j (by simp [hj])
  have e2 : sb.waiting.filter (fun m => decide (m ≠ n)) = sb.waiting :=
    List.filter_eq_self.2 fun m hm => by
      simp only [decide_eq_true_eq]; rintro rfl; exact h2 hm
  have e3 : sb.running.map Job.slot ≠ some n := by
    intro h
    obtain ⟨j, hj, hn⟩ := Option.map_eq_some_iff.1 h
    exact h1 j (by simp [hj]) hn
  simp only [Sideband.without, e1, e2, if_neg e3]

/-- The engine goes on with what its jobs do not name: filling and taking put no job of a slot into one that had none. -/
theorem State.noJobs_goesOn {s : State} {sb : Sideband} {n : SlotId} (h : sb.noJobs n) : (s.goesOn sb).noJobs n := by
  have hf : ∀ {sb : Sideband}, sb.noJobs n → sb.filled.noJobs n := by
    intro sb ⟨h1, h2⟩
    refine ⟨?_, fun h => h2 (List.mem_of_mem_drop h)⟩
    intro j hj
    simp only [Sideband.filled, List.mem_append, List.mem_map] at hj
    rcases hj with hj | hj | ⟨m, hm, rfl⟩
    · exact h1 j (by simp [hj])
    · exact h1 j (by simp [hj])
    · rintro rfl; exact h2 (List.mem_of_mem_take hm)
  unfold State.goesOn State.takesHead
  have h0 := hf h
  split
  · rename_i j rest hr hq
    have := hf (sb := { sb.filled with queue := rest }) ⟨fun i hi => h0.1 i (by simp_all), h0.2⟩
    refine ⟨fun i hi => ?_, this.2⟩
    simp only [Option.toList_some, List.singleton_append, List.mem_cons] at hi
    rcases hi with rfl | hi
    · exact h0.1 _ (by simp [hq])
    · exact this.1 i (by simpa using Or.inr hi)
  · exact h0
  · exact h0

/-- After a cancellation the engine holds no job of the slot (R38, R39). -/
theorem State.noJobs_jobsCancelled (s : State) (n : SlotId) : (s.jobsCancelled n).noJobs n := by
  apply State.noJobs_goesOn
  unfold Sideband.without
  dsimp only
  split
  · refine ⟨fun j hj => ?_, by simp [Sideband.jobEnded]⟩
    simp [Sideband.jobEnded] at hj; exact hj.2
  · rename_i h
    refine ⟨fun j hj => ?_, by simp⟩
    simp only [List.mem_append, List.mem_filter, decide_eq_true_eq] at hj
    rcases hj with hj | hj
    · rintro rfl; exact h (by simpa using ⟨j, by simpa using hj, rfl⟩)
    · exact hj.2

/-- A second cancellation in the same moment changes nothing of the engine. -/
theorem State.jobsCancelled_again {s t : State} {n : SlotId} (h : t.sb = s.jobsCancelled n) :
    t.jobsCancelled n = s.jobsCancelled n := by
  have e : t.sb.without n = t.sb := Sideband.without_self (h ▸ State.noJobs_jobsCancelled s n)
  rw [State.jobsCancelled, e, h]
  exact State.goesOn_self _ (State.settled_goesOn _ _)

/-- A slot put into an ascending set stands between the lower ones and the higher ones (R33). -/
theorem insertSlot_eq (n : SlotId) (ws : List SlotId) (h : ws.Pairwise (· < ·)) :
    insertSlot n ws = ws.filter (fun m => decide (m < n)) ++ n :: ws.filter (fun m => decide (n < m)) := by
  induction ws with
  | nil => rfl
  | cons m ms ih =>
    obtain ⟨h1, h2⟩ := List.pairwise_cons.1 h
    unfold insertSlot
    have high : n ≤ m → ms.filter (fun k => decide (k < n)) = [] ∧ ms.filter (fun k => decide (n < k)) = ms := fun hn =>
      ⟨List.filter_eq_nil_iff.2 fun k hk => by simpa using (hn.trans_lt (h1 k hk)).le,
        List.filter_eq_self.2 fun k hk => by simpa using hn.trans_lt (h1 k hk)⟩
    split
    · rename_i e; subst e; simp [high le_rfl]
    · split
      · rename_i e; simp [high e.le, e, e.le]
      · rename_i e1 e2
        have e : m < n := lt_of_le_of_ne (not_lt.1 e2) (Ne.symm e1)
        simp [ih h2, e, e.le]

/-- An identity job handed over, as the statements say it (R33). -/
theorem State.handIdentity_sb (s : State) (n : SlotId) (h : s.sb.waiting.Pairwise (· < ·)) :
    (s.handIdentity n).sb = s.identityHanded n := by
  unfold State.handIdentity State.identityHanded
  simp only [State.startJob_sb, insertSlot_eq n _ h]
  split <;> exact State.takesHead_congr (fun _ => rfl) rfl _

/-- What is handed over depends on the engine, the moment and the lines alone. -/
theorem State.identityHanded_congr {s t : State} {n : SlotId} (hs : t.sb = s.sb) (hn : t.now = s.now)
    (hl : ∀ m, (t.slot m).sbdatLow = (s.slot m).sbdatLow) : t.identityHanded n = s.identityHanded n := by
  unfold State.identityHanded
  rw [hs, State.takesHead_congr hl hn, State.takesHead_congr hl hn]

end Sys2Proof.Machine
end

