-- ==== Sys2Proof/Laws/Extents.lean ====
section
/-! SUPPORT. The Extent Table's operations: which parts of the state they can change, and what a release and a shutdown
leave of a slot. -/

namespace Sys2Proof.Machine

@[simp] theorem State.setExtent_slots (s : State) (x : Nat) (e : Extent) : (s.setExtent x e).slots = s.slots := by
  unfold State.setExtent; split <;> rfl
@[simp] theorem State.setExtent_sb (s : State) (x : Nat) (e : Extent) : (s.setExtent x e).sb = s.sb := by
  unfold State.setExtent; split <;> rfl
@[simp] theorem State.setExtent_trk (s : State) (x : Nat) (e : Extent) : (s.setExtent x e).trk = s.trk := by
  unfold State.setExtent; split <;> rfl
@[simp] theorem State.setExtent_ctl (s : State) (x : Nat) (e : Extent) : (s.setExtent x e).ctl = s.ctl := by
  unfold State.setExtent; split <;> rfl
@[simp] theorem State.setExtent_params (s : State) (x : Nat) (e : Extent) : (s.setExtent x e).params = s.params := by
  unfold State.setExtent; split <;> rfl
@[simp] theorem State.setExtent_attachSel (s : State) (x : Nat) (e : Extent) : (s.setExtent x e).attachSel = s.attachSel := by
  unfold State.setExtent; split <;> rfl
@[simp] theorem State.setExtent_now (s : State) (x : Nat) (e : Extent) : (s.setExtent x e).now = s.now := by
  unfold State.setExtent; split <;> rfl
@[simp] theorem State.setExtent_drawn (s : State) (x : Nat) (e : Extent) : (s.setExtent x e).drawn = s.drawn := by
  unfold State.setExtent; split <;> rfl
@[simp] theorem State.setExtent_pending (s : State) (x : Nat) (e : Extent) : (s.setExtent x e).pending = s.pending := by
  unfold State.setExtent; split <;> rfl
@[simp] theorem State.setExtent_scrub (s : State) (x : Nat) (e : Extent) : (s.setExtent x e).scrub = s.scrub := by
  unfold State.setExtent; split <;> rfl
@[simp] theorem State.makeDirty_slots (s : State) (x : Nat) : (s.makeDirty x).slots = s.slots := by
  simp [State.makeDirty]
@[simp] theorem State.makeDirty_sb (s : State) (x : Nat) : (s.makeDirty x).sb = s.sb := by
  simp [State.makeDirty]
@[simp] theorem State.makeDirty_trk (s : State) (x : Nat) : (s.makeDirty x).trk = s.trk := by
  simp [State.makeDirty]
@[simp] theorem State.makeDirty_ctl (s : State) (x : Nat) : (s.makeDirty x).ctl = s.ctl := by
  simp [State.makeDirty]
@[simp] theorem State.makeDirty_params (s : State) (x : Nat) : (s.makeDirty x).params = s.params := by
  simp [State.makeDirty]
@[simp] theorem State.makeDirty_attachSel (s : State) (x : Nat) : (s.makeDirty x).attachSel = s.attachSel := by
  simp [State.makeDirty]
@[simp] theorem State.makeDirty_now (s : State) (x : Nat) : (s.makeDirty x).now = s.now := by
  simp [State.makeDirty]
@[simp] theorem State.makeDirty_drawn (s : State) (x : Nat) : (s.makeDirty x).drawn = s.drawn := by
  simp [State.makeDirty]
@[simp] theorem State.makeDirty_pending (s : State) (x : Nat) : (s.makeDirty x).pending = s.pending := by
  simp [State.makeDirty]
@[simp] theorem State.releaseExtent_slots (s : State) (n : SlotId) (x : Nat) : (s.releaseExtent n x).slots = s.slots := by
  unfold State.releaseExtent; dsimp only; split <;> (try split) <;> simp
@[simp] theorem State.releaseExtent_sb (s : State) (n : SlotId) (x : Nat) : (s.releaseExtent n x).sb = s.sb := by
  unfold State.releaseExtent; dsimp only; split <;> (try split) <;> simp
@[simp] theorem State.releaseExtent_trk (s : State) (n : SlotId) (x : Nat) : (s.releaseExtent n x).trk = s.trk := by
  unfold State.releaseExtent; dsimp only; split <;> (try split) <;> simp
@[simp] theorem State.releaseExtent_ctl (s : State) (n : SlotId) (x : Nat) : (s.releaseExtent n x).ctl = s.ctl := by
  unfold State.releaseExtent; dsimp only; split <;> (try split) <;> simp
@[simp] theorem State.releaseExtent_params (s : State) (n : SlotId) (x : Nat) : (s.releaseExtent n x).params = s.params := by
  unfold State.releaseExtent; dsimp only; split <;> (try split) <;> simp
@[simp] theorem State.releaseExtent_attachSel (s : State) (n : SlotId) (x : Nat) : (s.releaseExtent n x).attachSel = s.attachSel := by
  unfold State.releaseExtent; dsimp only; split <;> (try split) <;> simp
@[simp] theorem State.releaseExtent_now (s : State) (n : SlotId) (x : Nat) : (s.releaseExtent n x).now = s.now := by
  unfold State.releaseExtent; dsimp only; split <;> (try split) <;> simp
@[simp] theorem State.releaseExtent_drawn (s : State) (n : SlotId) (x : Nat) : (s.releaseExtent n x).drawn = s.drawn := by
  unfold State.releaseExtent; dsimp only; split <;> (try split) <;> simp
@[simp] theorem State.releaseExtent_pending (s : State) (n : SlotId) (x : Nat) : (s.releaseExtent n x).pending = s.pending := by
  unfold State.releaseExtent; dsimp only; split <;> (try split) <;> simp
@[simp] theorem State.releaseExtents_slots (n : SlotId) (xs : List Nat) (s : State) :
    (s.releaseExtents n xs).slots = s.slots := by
  unfold State.releaseExtents
  induction xs generalizing s with
  | nil => rfl
  | cons x xs ih => simp [ih]
@[simp] theorem State.releaseExtents_sb (n : SlotId) (xs : List Nat) (s : State) :
    (s.releaseExtents n xs).sb = s.sb := by
  unfold State.releaseExtents
  induction xs generalizing s with
  | nil => rfl
  | cons x xs ih => simp [ih]
@[simp] theorem State.releaseExtents_trk (n : SlotId) (xs : List Nat) (s : State) :
    (s.releaseExtents n xs).trk = s.trk := by
  unfold State.releaseExtents
  induction xs generalizing s with
  | nil => rfl
  | cons x xs ih => simp [ih]
@[simp] theorem State.releaseExtents_ctl (n : SlotId) (xs : List Nat) (s : State) :
    (s.releaseExtents n xs).ctl = s.ctl := by
  unfold State.releaseExtents
  induction xs generalizing s with
  | nil => rfl
  | cons x xs ih => simp [ih]
@[simp] theorem State.releaseExtents_params (n : SlotId) (xs : List Nat) (s : State) :
    (s.releaseExtents n xs).params = s.params := by
  unfold State.releaseExtents
  induction xs generalizing s with
  | nil => rfl
  | cons x xs ih => simp [ih]
@[simp] theorem State.releaseExtents_attachSel (n : SlotId) (xs : List Nat) (s : State) :
    (s.releaseExtents n xs).attachSel = s.attachSel := by
  unfold State.releaseExtents
  induction xs generalizing s with
  | nil => rfl
  | cons x xs ih => simp [ih]
@[simp] theorem State.releaseExtents_now (n : SlotId) (xs : List Nat) (s : State) :
    (s.releaseExtents n xs).now = s.now := by
  unfold State.releaseExtents
  induction xs generalizing s with
  | nil => rfl
  | cons x xs ih => simp [ih]
@[simp] theorem State.releaseExtents_drawn (n : SlotId) (xs : List Nat) (s : State) :
    (s.releaseExtents n xs).drawn = s.drawn := by
  unfold State.releaseExtents
  induction xs generalizing s with
  | nil => rfl
  | cons x xs ih => simp [ih]
@[simp] theorem State.releaseExtents_pending (n : SlotId) (xs : List Nat) (s : State) :
    (s.releaseExtents n xs).pending = s.pending := by
  unfold State.releaseExtents
  induction xs generalizing s with
  | nil => rfl
  | cons x xs ih => simp [ih]
@[simp] theorem State.releaseMap_sb (s : State) (n : SlotId) : (s.releaseMap n).sb = s.sb := by
  simp [State.releaseMap]
@[simp] theorem State.releaseMap_trk (s : State) (n : SlotId) : (s.releaseMap n).trk = s.trk := by
  simp [State.releaseMap]
@[simp] theorem State.releaseMap_ctl (s : State) (n : SlotId) : (s.releaseMap n).ctl = s.ctl := by
  simp [State.releaseMap]
@[simp] theorem State.releaseMap_params (s : State) (n : SlotId) : (s.releaseMap n).params = s.params := by
  simp [State.releaseMap]
@[simp] theorem State.releaseMap_attachSel (s : State) (n : SlotId) : (s.releaseMap n).attachSel = s.attachSel := by
  simp [State.releaseMap]
@[simp] theorem State.releaseMap_now (s : State) (n : SlotId) : (s.releaseMap n).now = s.now := by
  simp [State.releaseMap]
@[simp] theorem State.releaseMap_drawn (s : State) (n : SlotId) : (s.releaseMap n).drawn = s.drawn := by
  simp [State.releaseMap]
@[simp] theorem State.releaseMap_pending (s : State) (n : SlotId) : (s.releaseMap n).pending = s.pending := by
  simp [State.releaseMap]
@[simp] theorem State.shutDown_trk (s : State) (n : SlotId) : (s.shutDown n).trk = s.trk := by
  simp [State.shutDown]
@[simp] theorem State.shutDown_ctl (s : State) (n : SlotId) : (s.shutDown n).ctl = s.ctl := by
  simp [State.shutDown]
@[simp] theorem State.shutDown_params (s : State) (n : SlotId) : (s.shutDown n).params = s.params := by
  simp [State.shutDown]
@[simp] theorem State.shutDown_attachSel (s : State) (n : SlotId) : (s.shutDown n).attachSel = s.attachSel := by
  simp [State.shutDown]
@[simp] theorem State.shutDown_now (s : State) (n : SlotId) : (s.shutDown n).now = s.now := by
  simp [State.shutDown]
@[simp] theorem State.shutDown_drawn (s : State) (n : SlotId) : (s.shutDown n).drawn = s.drawn := by
  simp [State.shutDown]
@[simp] theorem State.shutDown_pending (s : State) (n : SlotId) : (s.shutDown n).pending = s.pending := by
  simp [State.shutDown]

@[simp] theorem State.setExtent_slot (s : State) (x : Nat) (e : Extent) (n : SlotId) :
    (s.setExtent x e).slot n = s.slot n := State.slot_of_slots_eq _ _ (by simp) n
@[simp] theorem State.makeDirty_slot (s : State) (x : Nat) (n : SlotId) :
    (s.makeDirty x).slot n = s.slot n := State.slot_of_slots_eq _ _ (by simp) n
@[simp] theorem State.releaseExtents_slot (s : State) (n : SlotId) (xs : List Nat) (m : SlotId) :
    (s.releaseExtents n xs).slot m = s.slot m := State.slot_of_slots_eq _ _ (by simp) m
@[simp] theorem State.releaseMap_entry (s : State) (n : SlotId) (k : MemTag) :
    (s.releaseMap n).entry k = s.entry k := State.entry_of_trk_eq _ _ (by simp) k
@[simp] theorem State.shutDown_entry (s : State) (n : SlotId) (k : MemTag) :
    (s.shutDown n).entry k = s.entry k := State.entry_of_trk_eq _ _ (by simp) k

/-- The slots after a release of a map. -/
theorem State.releaseMap_slot (s : State) (n m : SlotId) :
    (s.releaseMap n).slot m = if m = n then { s.slot n with map := Vector.replicate 32 none } else s.slot m := by
  simp [State.releaseMap, State.modSlot_slot]

/-- The slots after the link is isolated. -/
theorem State.isolate_slot (s : State) (n m : SlotId) :
    (s.isolate n).slot m = if m = n then (s.slot n).isolated else s.slot m := by
  simp [State.isolate, State.modSlot_slot]

/-- The slots after a shutdown. -/
theorem State.shutDown_slot (s : State) (n m : SlotId) :
    (s.shutDown n).slot m = if m = n then (s.slot n).shut else s.slot m := by
  by_cases h : m = n
  · subst h; simp [State.shutDown, State.releaseMap_slot, State.powerOff_slot, State.isolate_slot, Slot.shut, Slot.isolated, Slot.loseLink,
      Slot.discardPartly]
  · simp [State.shutDown, State.releaseMap_slot, State.powerOff_slot, State.isolate_slot, h]

end Sys2Proof.Machine
end

