-- ==== Sys2Proof/Laws/Table.lean ====
section
/-! SUPPORT. The extent records that the Extent Table's operations leave, and the scrub queue. -/

namespace Sys2Proof.Machine

/-- The record that was written. -/
theorem State.setExtent_extent_self (s : State) (x : Nat) (e : Extent) (h : x < 2048) :
    (s.setExtent x e).extent x = e := by
  simp [State.setExtent, State.extent, h, Vector.get_eq_getElem]

/-- The other records stay. -/
theorem State.setExtent_extent_of_ne (s : State) (x y : Nat) (e : Extent) (h : y ≠ x) :
    (s.setExtent x e).extent y = s.extent y := by
  unfold State.setExtent
  split
  · simp only [State.extent]
    split
    · simp [Vector.get_eq_getElem, Ne.symm h]
    · rfl
  · rfl

/-- A record written changes the records alone. -/
theorem State.setExtent_ext (s : State) (x : Nat) (e : Extent) :
    (s.setExtent x e).ext = { s.ext with records := (s.setExtent x e).ext.records } := by
  unfold State.setExtent; split <;> rfl

/-- The scrub queue does not name what a record holds. -/
@[simp] theorem State.joinScrub_extent (s : State) (x y : Nat) : (s.joinScrub x).extent y = s.extent y := rfl

/-- The record of an extent made DIRTY. -/
theorem State.makeDirty_extent_self (s : State) (x : Nat) (h : x < 2048) :
    (s.makeDirty x).extent x = Extent.dirty := by
  simp [State.makeDirty, State.setExtent_extent_self, h]

/-- The other records stay. -/
theorem State.makeDirty_extent_of_ne (s : State) (x y : Nat) (h : y ≠ x) :
    (s.makeDirty x).extent y = s.extent y := by
  simp [State.makeDirty, State.setExtent_extent_of_ne, h]

/-! ## What a release does (R88, R89) -/

/-- An extent after its record is rewritten. -/
theorem State.setExtent_extent (s : State) (x : Nat) (e : Extent) (y : Nat) :
    (s.setExtent x e).extent y = if y = x ∧ x < 2048 then e else s.extent y := by
  by_cases h : y = x
  · subst h
    by_cases hx : y < 2048
    · rw [State.setExtent_extent_self s y e hx, if_pos ⟨rfl, hx⟩]
    · simp [State.setExtent, hx]
  · rw [State.setExtent_extent_of_ne s x y e h, if_neg (fun k => h k.1)]

/-- The extents after one has become DIRTY. -/
theorem State.makeDirty_extent (s : State) (x y : Nat) :
    (s.makeDirty x).extent y = if y = x ∧ x < 2048 then Extent.dirty else s.extent y := State.setExtent_extent s x _ y

/-- The Extent Table after an extent has become DIRTY (R85). -/
theorem State.makeDirty_ext (s : State) (x : Nat) :
    (s.makeDirty x).ext =
      { s.ext with records := (s.makeDirty x).ext.records, queue := s.ext.queue ++ [x] } := by
  simp only [State.makeDirty, State.joinScrub]
  rw [State.setExtent_ext]

/-- The Scrub Engine hears of an extent that became DIRTY (R171). -/
theorem State.makeDirty_scrub (s : State) (x : Nat) : (s.makeDirty x).scrub = { s.scrub with deferral := 0 } := by
  simp [State.makeDirty, State.joinScrub]

/-- A number that names no record reads as FREE. -/
theorem State.extent_free (s : State) {x : Nat} (h : ¬ x < 2048) : s.extent x = Extent.free := by
  simp [State.extent, h]

/-- The record of an extent after one release of it (R88). -/
theorem State.releaseExtent_extent (s : State) (n : SlotId) (x y : Nat) :
    (s.releaseExtent n x).extent y = if y = x then (s.extent x).afterRelease n 1 else s.extent y := by
  by_cases hx : x < 2048
  · unfold State.releaseExtent Extent.afterRelease
    dsimp only
    cases hs : (s.extent x).state <;> dsimp only
    case owned => by_cases h : y = x <;> split <;> simp_all [State.makeDirty_extent]
    case shared =>
      have e : ((s.extent x).withdrawn = true ∧ (s.extent x).refs - 1 = 0) ↔
          (0 < 1 ∧ (s.extent x).withdrawn = true ∧ (s.extent x).refs ≤ 1) := by
        constructor <;> rintro h <;> simp_all <;> omega
      simp only [e]
      split <;> by_cases h : y = x <;> simp_all [State.makeDirty_extent, State.setExtent_extent]
    all_goals by_cases h : y = x <;> simp_all
  · have hf := s.extent_free hx
    have : s.releaseExtent n x = s := by simp [State.releaseExtent, hf, Extent.free]
    rw [this]
    by_cases h : y = x
    · subst h; simp [hf, Extent.afterRelease, Extent.free]
    · simp [h]

/-- Two releases are one of both counts (R88). -/
theorem Extent.afterRelease_add (e : Extent) (n : SlotId) (k : Nat) :
    (e.afterRelease n 1).afterRelease n k = e.afterRelease n (1 + k) := by
  obtain ⟨st, o, refs, wd⟩ := e
  cases st <;> simp only [Extent.afterRelease]
  case owned => by_cases h : o = some n <;> simp [h, Extent.dirty]
  case shared =>
    cases wd
    · simp [Nat.sub_sub]
    · by_cases h : refs ≤ 1
      · have : refs ≤ 1 + k := by omega
        simp [h, this, Extent.dirty]
      · by_cases hk : 0 < k ∧ refs - 1 ≤ k
        · have h2 : refs ≤ 1 + k := by omega
          simp [h, hk, h2]
        · have h2 : ¬ (0 < 1 + k ∧ refs ≤ 1 + k) := by omega
          simp only [h, true_and, and_false, if_false, hk, h2, Nat.zero_lt_one, Nat.sub_sub]

/-- None released leaves a record. -/
@[simp] theorem Extent.afterRelease_zero (e : Extent) (n : SlotId) : e.afterRelease n 0 = e := by
  obtain ⟨st, o, refs, wd⟩ := e
  cases st <;> simp [Extent.afterRelease]

/-- A DIRTY extent is left by a release. -/
theorem Extent.afterRelease_dirty {e : Extent} (h : e.state = .dirty) (n : SlotId) (k : Nat) :
    e.afterRelease n k = e := by simp [Extent.afterRelease, h]

/-- The records after a release of several extents (R88, R89). -/
theorem State.releaseExtents_extent (n : SlotId) (xs : List Nat) (s : State) (y : Nat) :
    (s.releaseExtents n xs).extent y = (s.extent y).afterRelease n (xs.count y) := by
  induction xs generalizing s with
  | nil => simp [State.releaseExtents]
  | cons x xs ih =>
    have : s.releaseExtents n (x :: xs) = (s.releaseExtent n x).releaseExtents n xs := rfl
    rw [this, ih, State.releaseExtent_extent]
    by_cases h : y = x
    · subst h; rw [if_pos rfl, Extent.afterRelease_add, List.count_cons_self, Nat.add_comm]
    · have h2 : ¬ x = y := fun e => h e.symm
      simp [h, h2]

/-- One release makes its extent DIRTY and joins it to the scrub queue, or changes no extent to DIRTY (R88). -/
theorem State.releaseExtent_cases (s : State) (n : SlotId) (x : Nat) :
    ((s.extent x).state ≠ .dirty ∧ x < 2048 ∧ s.releaseExtent n x = s.makeDirty x) ∨
      ((s.releaseExtent n x).ext = { s.ext with records := (s.releaseExtent n x).ext.records } ∧
        (s.releaseExtent n x).scrub = s.scrub ∧
        ∀ y, ((s.releaseExtent n x).extent y).state = .dirty ↔ (s.extent y).state = .dirty) := by
  have hx : (s.extent x).state ≠ .free → x < 2048 := by
    intro h; by_contra hx; exact h (by rw [s.extent_free hx]; rfl)
  unfold State.releaseExtent
  dsimp only
  cases hs : (s.extent x).state <;> dsimp only
  case owned =>
    split
    · exact Or.inl ⟨by simp, hx (by simp [hs]), rfl⟩
    · exact Or.inr ⟨rfl, rfl, fun _ => Iff.rfl⟩
  case shared =>
    split
    · exact Or.inl ⟨by simp, hx (by simp [hs]), rfl⟩
    · refine Or.inr ⟨State.setExtent_ext s x _, by simp, fun y => ?_⟩
      rw [State.setExtent_extent]
      split
      · rename_i h; rw [h.1]; simp [hs]
      · rfl
  all_goals exact Or.inr ⟨rfl, rfl, fun _ => Iff.rfl⟩

/-- A release of several extents: those that become DIRTY join the tail of the scrub queue in the order of the list, and the
Scrub Engine hears of it (R85, R89, R171). -/
theorem State.releaseExtents_join (n : SlotId) (xs : List Nat) (s : State) :
    ∃ js : List Nat, js.Nodup ∧ js.Sublist xs ∧
      (∀ x, x ∈ js ↔ (s.extent x).state ≠ .dirty ∧ ((s.releaseExtents n xs).extent x).state = .dirty) ∧
      (s.releaseExtents n xs).ext =
        { s.ext with records := (s.releaseExtents n xs).ext.records, queue := s.ext.queue ++ js } ∧
      (s.releaseExtents n xs).scrub = if js ≠ [] then { s.scrub with deferral := 0 } else s.scrub := by
  induction xs generalizing s with
  | nil => exact ⟨[], by simp, by simp, by simp [State.releaseExtents], by simp [State.releaseExtents],
      by simp [State.releaseExtents]⟩
  | cons x xs ih =>
    obtain ⟨js, h1, h2, h3, h4, h5⟩ := ih (s.releaseExtent n x)
    have e : s.releaseExtents n (x :: xs) = (s.releaseExtent n x).releaseExtents n xs := rfl
    rw [e]
    rcases State.releaseExtent_cases s n x with ⟨hd, hx, hr⟩ | ⟨he, hsc, hst⟩
    · rw [hr] at h3 h4 h5 ⊢
      have hnow : ((s.makeDirty x).extent x).state = .dirty := by simp [State.makeDirty_extent, hx, Extent.dirty]
      have hstay : (((s.makeDirty x).releaseExtents n xs).extent x).state = .dirty := by
        rw [State.releaseExtents_extent, Extent.afterRelease_dirty hnow, hnow]
      have hnot : x ∉ js := by rw [h3]; simp [hnow]
      refine ⟨x :: js, List.nodup_cons.2 ⟨hnot, h1⟩, h2.cons_cons x, fun y => ?_, ?_, ?_⟩
      · by_cases hy : y = x
        · subst hy; simp [hd, hstay]
        · rw [List.mem_cons, h3, State.makeDirty_extent]; simp [hy]
      · rw [h4, State.makeDirty_ext]; simp
      · rw [h5, State.makeDirty_scrub]; simp
    · refine ⟨js, h1, h2.cons x, fun y => ?_, ?_, ?_⟩
      · rw [h3]; simp [hst]
      · rw [h4, he]
      · rw [h5, hsc]

end Sys2Proof.Machine
end

