-- ==== Sys2Proof/Laws/Frames.lean ====
section
/-! SUPPORT. The frames of the named operations, and how frames compose: what the provers cite instead of unfolding an
operation. -/

namespace Sys2Proof.Machine

/-! ## The stale set -/

/-- A unit put into the stale set twice is there once. -/
theorem insertUnit_idem (u : StatusUnit) (us : List StatusUnit) : insertUnit u (insertUnit u us) = insertUnit u us := by
  induction us with
  | nil => simp [insertUnit]
  | cons v vs ih =>
    by_cases h : u = v
    · simp [insertUnit, h]
    · by_cases h2 : u.rank < v.rank
      · simp [insertUnit, h, h2]
      · simp [insertUnit, h, h2, ih]

/-- A unit marked stale twice is marked once. -/
theorem Ring.markStale_idem (r : Ring) (u : StatusUnit) : (r.markStale u).markStale u = r.markStale u := by
  unfold Ring.markStale
  split
  · rename_i h; simp [h, insertUnit_idem]
  · rfl

/-- Nothing changed. -/
theorem ringNoticed_refl (n : SlotId) (r : Ring) : ringNoticed n r r := Or.inl rfl

/-- Two notices of one slot are one. -/
theorem ringNoticed_trans {n : SlotId} {a b c : Ring} (h : ringNoticed n a b) (k : ringNoticed n b c) :
    ringNoticed n a c := by
  rcases h with h | h <;> rcases k with k | k <;> subst h <;> subst k
  · exact Or.inl rfl
  · exact Or.inr rfl
  · exact Or.inr rfl
  · exact Or.inr (Ring.markStale_idem _ _)

/-- A notice changes the stale set alone. -/
theorem ringNoticed_eq {n : SlotId} {r r' : Ring} (h : ringNoticed n r r') : r' = { r with stale := r'.stale } := by
  rcases h with h | h <;> subst h
  · rfl
  · unfold Ring.markStale; split <;> rfl

/-- A marked unit changes the stale set alone. -/
theorem Ring.markStale_eq (r : Ring) (u : StatusUnit) : r.markStale u = { r with stale := (r.markStale u).stale } := by
  unfold Ring.markStale; split <;> rfl

/-! ## One slot changed -/

/-- Nothing but the slot changed, in itself. -/
theorem keepsAllBut_refl (n : SlotId) (s : State) : keepsAllBut n s s := by simp [keepsAllBut]

/-- Frames compose. -/
theorem keepsAllBut_trans {n : SlotId} {s t u : State} (h : keepsAllBut n s t) (k : keepsAllBut n t u) :
    keepsAllBut n s u := by
  obtain ⟨h1, h2, h3, h4, h5, h6, h7, h8, h9, h10⟩ := h
  obtain ⟨k1, k2, k3, k4, k5, k6, k7, k8, k9, k10⟩ := k
  exact ⟨fun m hm => (k1 m hm).trans (h1 m hm), k2.trans h2, k3.trans h3, k4.trans h4, k5.trans h5, k6.trans h6,
    k7.trans h7, k8.trans h8, k9.trans h9, k10.trans h10⟩

/-- `modSlot` keeps all but its slot. -/
theorem keepsAllBut_modSlot (n : SlotId) (s : State) (f : Slot → Slot) : keepsAllBut n s (s.modSlot n f) := by
  refine ⟨fun m hm => State.modSlot_slot_of_ne s n m f hm, ?_⟩
  simp

/-- An event keeps every slot and every block but the Ring Interface. -/
theorem keepsAllBut_postEvent (n : SlotId) (s : State) (e : Event) : keepsAllBut n s (s.postEvent e) := by
  simp [keepsAllBut]

/-- `modSlot` as a frame. -/
theorem slotBecomes_modSlot (n : SlotId) (s : State) (f : Slot → Slot) :
    slotBecomes n s (s.modSlot n f) (f (s.slot n)) :=
  ⟨State.modSlot_slot_self s n f, keepsAllBut_modSlot n s f, State.modSlot_ring s n f⟩

/-- One slot changed twice. -/
theorem slotBecomes_trans {n : SlotId} {s t u : State} {a b : Slot} (h : slotBecomes n s t a)
    (k : slotBecomes n t u b) : slotBecomes n s u b :=
  ⟨k.1, keepsAllBut_trans h.2.1 k.2.1, ringNoticed_trans h.2.2 k.2.2⟩

/-- A slot changed and an event handed over. -/
theorem slotBecomesPosting_of {n : SlotId} {s t : State} {a : Slot} (h : slotBecomes n s t a) (e : Event) :
    slotBecomesPosting n s (t.postEvent e) a e :=
  ⟨h.1, keepsAllBut_trans h.2.1 (keepsAllBut_postEvent n t e), t.ring, h.2.2, rfl⟩

/-- `modSlot` changes the stale set of the Ring Interface alone. -/
theorem State.modSlot_ring_eq (s : State) (n : SlotId) (f : Slot → Slot) :
    (s.modSlot n f).ring = { s.ring with stale := (s.modSlot n f).ring.stale } :=
  ringNoticed_eq (State.modSlot_ring s n f)

/-- A change of no value that the status block shows leaves the Ring Interface as it is (R189). -/
theorem State.modSlot_ring_of_shown (s : State) (n : SlotId) (f : Slot → Slot)
    (h : (f (s.slot n)).shown = (s.slot n).shown) : (s.modSlot n f).ring = s.ring := by
  simp [State.modSlot, h]

/-! ## Cancelled jobs (R38, R39) -/

/-- The answers of cancelled jobs, each in its reserved place. -/
theorem State.foldl_cancelJob_answers (js : List Job) (s : State) :
    (js.foldl State.cancelJob s).ring =
      { s.ring with
        pend := s.ring.pend ++ noBladeAnswers js, reserved := s.ring.reserved - (noBladeAnswers js).length } := by
  induction js generalizing s with
  | nil => simp [noBladeAnswers]
  | cons j js ih =>
    rw [List.foldl_cons, ih]
    cases j with
    | identity n ws => simp [State.cancelJob, noBladeAnswers]
    | request n w reg d seq =>
      simp [State.cancelJob, noBladeAnswers, State.respond, Ring.respond, List.append_assoc]
      omega

/-- The order to cancel answers the slot's request jobs NO_BLADE. -/
theorem State.cancelJobs_answers (s : State) (n : SlotId) :
    (s.cancelJobs n).ring =
      { s.ring with
        pend := s.ring.pend ++ noBladeAnswers (s.jobsOf n)
        reserved := s.ring.reserved - (noBladeAnswers (s.jobsOf n)).length } := by
  unfold State.cancelJobs
  simp only [State.nextJob_ring]
  rw [State.foldl_cancelJob_answers]
  rfl

/-! ## Releases (R88, R89) -/

/-- What a release does to the Extent Table and the Scrub Engine depends on them alone, and of the Ring Interface it changes
the stale set alone. -/
theorem State.setExtent_congr (s t : State) (x : Nat) (e : Extent) (h : t.ext = s.ext) :
    (t.setExtent x e).ext = (s.setExtent x e).ext := by
  unfold State.setExtent; split
  · simp [h]
  · simp [h]

/-- `setExtent` changes the stale set of the Ring Interface alone. -/
theorem State.setExtent_ring (s : State) (x : Nat) (e : Extent) :
    (s.setExtent x e).ring = { s.ring with stale := (s.setExtent x e).ring.stale } := by
  unfold State.setExtent
  split
  · dsimp only
    split <;> split <;> (try rfl) <;> (unfold Ring.markStale; (repeat' split) <;> simp_all)
  · rfl

/-- `makeDirty` changes the stale set of the Ring Interface alone. -/
theorem State.makeDirty_ring (s : State) (x : Nat) :
    (s.makeDirty x).ring = { s.ring with stale := (s.makeDirty x).ring.stale } := by
  unfold State.makeDirty State.joinScrub
  rw [Ring.markStale_eq, State.setExtent_ring]

/-- `makeDirty` depends on the Extent Table and the Scrub Engine alone. -/
theorem State.makeDirty_congr (s t : State) (x : Nat) (h : t.ext = s.ext) (k : t.scrub = s.scrub) :
    (t.makeDirty x).ext = (s.makeDirty x).ext ∧ (t.makeDirty x).scrub = (s.makeDirty x).scrub := by
  simp [State.makeDirty, State.joinScrub, State.setExtent_congr s t x _ h, k]

/-- `releaseExtent` depends on the Extent Table and the Scrub Engine alone. -/
theorem State.releaseExtent_congr (s t : State) (n : SlotId) (x : Nat) (h : t.ext = s.ext) (k : t.scrub = s.scrub) :
    (t.releaseExtent n x).ext = (s.releaseExtent n x).ext ∧ (t.releaseExtent n x).scrub = (s.releaseExtent n x).scrub := by
  have he : t.extent x = s.extent x := by simp [State.extent, h]
  have hd := State.makeDirty_congr s t x h k
  unfold State.releaseExtent
  simp only [he]
  split
  · split <;> simp [h, k, hd]
  · split <;> simp [k, hd, State.setExtent_congr s t x _ h]
  all_goals exact ⟨h, k⟩

/-- `releaseExtents` likewise. -/
theorem State.releaseExtents_congr (n : SlotId) (xs : List Nat) (s t : State) (h : t.ext = s.ext)
    (k : t.scrub = s.scrub) :
    (t.releaseExtents n xs).ext = (s.releaseExtents n xs).ext ∧
      (t.releaseExtents n xs).scrub = (s.releaseExtents n xs).scrub := by
  induction xs generalizing s t with
  | nil => exact ⟨h, k⟩
  | cons x xs ih =>
    obtain ⟨h1, k1⟩ := State.releaseExtent_congr s t n x h k
    exact ih _ _ h1 k1

/-- `releaseExtent` changes the stale set of the Ring Interface alone. -/
theorem State.releaseExtent_ring (s : State) (n : SlotId) (x : Nat) :
    (s.releaseExtent n x).ring = { s.ring with stale := (s.releaseExtent n x).ring.stale } := by
  unfold State.releaseExtent
  dsimp only
  split
  · split
    · exact State.makeDirty_ring s x
    · rfl
  · split
    · exact State.makeDirty_ring s x
    · exact State.setExtent_ring s x _
  all_goals rfl

/-- `releaseExtents` changes the stale set of the Ring Interface alone. -/
theorem State.releaseExtents_ring (n : SlotId) (xs : List Nat) (s : State) :
    (s.releaseExtents n xs).ring = { s.ring with stale := (s.releaseExtents n xs).ring.stale } := by
  induction xs generalizing s with
  | nil => rfl
  | cons x xs ih =>
    have h := ih (s.releaseExtent n x)
    rw [State.releaseExtent_ring] at h
    exact h

/-- A release of a map changes the stale set of the Ring Interface alone. -/
theorem State.releaseMap_ring (s : State) (n : SlotId) :
    (s.releaseMap n).ring = { s.ring with stale := (s.releaseMap n).ring.stale } := by
  unfold State.releaseMap
  rw [State.modSlot_ring_eq, State.releaseExtents_ring]

/-- A release of a map depends on the map, the Extent Table and the Scrub Engine alone. -/
theorem State.releaseMap_congr (s t : State) (n : SlotId) (h : t.ext = s.ext) (k : t.scrub = s.scrub)
    (m : (t.slot n).map = (s.slot n).map) :
    (t.releaseMap n).ext = (s.releaseMap n).ext ∧ (t.releaseMap n).scrub = (s.releaseMap n).scrub := by
  have := State.releaseExtents_congr n ((mapEntries (s.slot n).map).map MapEntry.extent) s t h k
  simpa [State.releaseMap, m] using this

/-! ### The release of a map -/

/-- How often a map's entries name an extent. -/
theorem count_map_extent (es : List MapEntry) (x : Nat) :
    (es.map MapEntry.extent).count x = es.countP fun e => e.extent == x := by
  rw [List.count, List.countP_map]; rfl

/-- With no entry freed the Scrub Engine hears of the extents alone. -/
theorem scrubHears_of_entries {s t : State} {js : List Nat} (h : ∀ k, (t.entry k).state = (s.entry k).state)
    (k : t.scrub = if js ≠ [] then { s.scrub with deferral := 0 } else s.scrub) : scrubHears s t js := by
  unfold scrubHears
  rw [k]
  have : ¬ ∃ k : MemTag, (s.entry k).state ≠ .free ∧ (t.entry k).state = .free := by
    rintro ⟨k, h1, h2⟩; exact h1 (h k ▸ h2)
  simp only [this, or_false]

/-- What a release of a map does (R88, R89, R145). -/
theorem State.releaseMap_spec (s : State) (n : SlotId) : mapReleased n s (s.releaseMap n) := by
  have hx : ∀ x, (s.releaseMap n).extent x =
      (s.releaseExtents n ((mapEntries (s.slot n).map).map MapEntry.extent)).extent x := fun x => rfl
  obtain ⟨js, h1, h2, h3, h4, h5⟩ :=
    State.releaseExtents_join n ((mapEntries (s.slot n).map).map MapEntry.extent) s
  refine ⟨fun x => ?_, js, h1, h2, fun x => ?_, ?_, scrubHears_of_entries (fun k => by simp) ?_⟩
  · rw [hx, State.releaseExtents_extent, count_map_extent]; rfl
  · rw [h3, hx]
  · simpa [State.releaseMap] using h4
  · simpa [State.releaseMap] using h5

/-- A state whose Extent Table and Scrub Engine are those of another, with no other entry freed, has released the map too. -/
theorem mapReleased_congr {n : SlotId} {s s' t t' : State} (h : mapReleased n s t) (hs : s'.ext = s.ext)
    (hc : s'.scrub = s.scrub) (hm : (s'.slot n).map = (s.slot n).map) (he : ∀ k, s'.entry k = s.entry k)
    (ht : t'.ext = t.ext) (htc : t'.scrub = t.scrub) (hte : ∀ k, t'.entry k = t.entry k) : mapReleased n s' t' := by
  have e1 : ∀ x, s'.extent x = s.extent x := fun x => by simp [State.extent, hs]
  have e2 : ∀ x, t'.extent x = t.extent x := fun x => by simp [State.extent, ht]
  simpa only [mapReleased, dirtiedJoin, scrubHears, e1, e2, hs, hc, hm, he, ht, htc, hte] using h

/-! ## A slot shut down -/

/-- Everything that a shutdown can do. -/
theorem State.shutDown_spec (s : State) (n : SlotId) :
    (s.shutDown n).slot n = (s.slot n).shut ∧ (∀ m, m ≠ n → (s.shutDown n).slot m = s.slot m) ∧
      (s.shutDown n).trk = s.trk ∧ mapReleased n s (s.shutDown n) ∧ (s.shutDown n).sb = s.jobsCancelled n ∧
      (s.shutDown n).sb.noJobs n ∧ ringShut n s (s.shutDown n).ring ∧ keepsRest s (s.shutDown n) ∧
      (s.shutDown n).now = s.now := by
  have hsb : (s.shutDown n).sb = s.jobsCancelled n := by
    simp only [State.shutDown, State.releaseMap_sb, State.powerOff, State.modSlot_sb, State.cancelJobs_sb,
      State.jobsCancelled, State.isolate_sb]
    exact State.goesOn_congr (fun m => by
      rw [State.isolate_slot]; split
      · rename_i h; subst h; rfl
      · rfl) (by simp) _
  refine ⟨by simp [State.shutDown_slot], fun m hm => by simp [State.shutDown_slot, hm], by simp, ?_, hsb, ?_, ?_,
    by simp [keepsRest], by simp⟩
  · refine mapReleased_congr (State.releaseMap_spec ((s.isolate n).powerOff n) n) (by simp) (by simp)
      (by simp [State.powerOff_slot, State.isolate_slot, Slot.isolated, Slot.loseLink, Slot.discardPartly]) ?_ rfl rfl
      (fun _ => rfl)
    exact fun k => (State.entry_of_trk_eq _ _ (by simp) k).symm
  · rw [hsb]; exact State.noJobs_jobsCancelled s n
  · unfold ringShut
    conv_lhs => rw [State.shutDown, State.releaseMap_ring, State.powerOff, State.modSlot_ring_eq,
      State.cancelJobs_answers, State.isolate, State.modSlot_ring_eq]
    rfl

end Sys2Proof.Machine
end

