-- ==== Sys2Proof/Laws/Drains.lean ====
section
/-! SUPPORT. What a shutdown followed by a change of the slot amounts to, and what giving up a slot's reads or all its
entries leaves of the slot and the tracker. -/

namespace Sys2Proof.Machine

/-- One slot changed twice over. -/
theorem slotBecomes_modSlot_twice (n : SlotId) (s : State) (f g : Slot → Slot) :
    slotBecomes n s ((s.modSlot n f).modSlot n g) (g (f (s.slot n))) := by
  refine slotBecomes_trans (slotBecomes_modSlot n s f) ?_
  simpa using slotBecomes_modSlot n (s.modSlot n f) g

/-- A slot shut down, its record set by `f`, and an event handed over. -/
theorem shutsDown_of (s : State) (n : SlotId) (f : Slot → Slot) (e : Event) :
    shutsDown n s (((s.shutDown n).modSlot n f).postEvent e) (f (s.slot n).shut) e := by
  obtain ⟨h1, h2, h3, h4, h5, h6, h7, h8, h9⟩ := State.shutDown_spec s n
  refine ⟨by simp [h1], ?_, by simp,
    mapReleased_congr h4 rfl rfl rfl (fun _ => rfl) (by simp) (by simp) (fun _ => by simp), by simpa using h5,
    by simpa using h6, ?_, ?_⟩
  · intro m hm
    simp [State.modSlot_slot_of_ne, hm, h2]
  · refine ⟨((s.shutDown n).modSlot n f).ring, ?_, rfl⟩
    unfold ringShut at h7 ⊢
    rw [State.modSlot_ring_eq, h7]
  · simp [keepsRest]

/-- The same after a change of the slot that its map does not see. -/
theorem shutsDown_of_modSlot (s : State) (n : SlotId) (g f : Slot → Slot) (e : Event)
    (hg : (g (s.slot n)).map = (s.slot n).map) (hb : (g (s.slot n)).sbdatLow = (s.slot n).sbdatLow) :
    shutsDown n s ((((s.modSlot n g).shutDown n).modSlot n f).postEvent e) (f (g (s.slot n)).shut) e := by
  obtain ⟨h1, h2, h3, h4, h5, h6, h7, h8, h9⟩ := State.shutDown_spec (s.modSlot n g) n
  refine ⟨by simp [h1], ?_, by simp,
    mapReleased_congr h4 (by simp) (by simp) (by simpa using hg.symm) (fun _ => by simp) (by simp) (by simp)
      (fun _ => by simp), ?_, by simpa using h6, ?_, ?_⟩
  · intro m hm
    simp [State.modSlot_slot_of_ne, hm, h2]
  · refine Eq.trans ((by simp : _ = ((s.modSlot n g).shutDown n).sb).trans h5)
      (State.goesOn_congr (fun m => ?_) (by simp) _)
    rw [State.modSlot_slot]; split
    · rename_i h; subst h; exact hb
    · rfl
  · refine ⟨(((s.modSlot n g).shutDown n).modSlot n f).ring, ?_, rfl⟩
    unfold ringShut at h7 ⊢
    rw [State.modSlot_ring_eq, h7, State.modSlot_ring_eq]
    rfl
  · simp [keepsRest]

/-- A power-off keeps every other slot, cancels the slot's jobs, and answers its requests. -/
theorem State.powerOff_spec (s : State) (n : SlotId) :
    (s.powerOff n).slot n = { s.slot n with pwrEn := false, sbdatLow := false } ∧
      (∀ m, m ≠ n → (s.powerOff n).slot m = s.slot m) ∧ (s.powerOff n).sb = s.jobsCancelled n ∧
      ringShut n s (s.powerOff n).ring := by
  refine ⟨by simp [State.powerOff_slot], fun m hm => by simp [State.powerOff_slot, hm],
    by simp [State.powerOff, State.cancelJobs_sb], ?_⟩
  · unfold ringShut
    conv_lhs => rw [State.powerOff, State.modSlot_ring_eq, State.cancelJobs_answers]
    rfl

/-! ## Reads given up (R75, R125) -/

/-- Orphaning the reads and freeing the waiting gives an entry's reads up. -/
theorem Entry.givenUp_eq (e : Entry) (n : SlotId) (inc : Half) :
    (if (e.orphaned n inc isRead).freedWaiting n inc then Entry.free else e.orphaned n inc isRead) = e.givenUp n inc := by
  obtain ⟨st, w, i, k, tag, addr, beats, dl, h⟩ := e
  by_cases hw : w = .slot n <;> by_cases hi : i = inc <;> cases st <;> cases k <;>
    simp [Entry.orphaned, Entry.freedWaiting, Entry.givenUp, EntryState.outstanding, isRead, hw, hi]

/-- Orphaning all and freeing the waiting gives an entry up. -/
theorem Entry.allGivenUp_eq (e : Entry) (n : SlotId) (inc : Half) :
    (if (e.orphaned n inc fun _ => true).freedWaiting n inc then Entry.free
      else e.orphaned n inc fun _ => true) = e.allGivenUp n inc := by
  obtain ⟨st, w, i, k, tag, addr, beats, dl, h⟩ := e
  by_cases hw : w = .slot n <;> by_cases hi : i = inc <;> cases st <;>
    simp [Entry.orphaned, Entry.freedWaiting, Entry.allGivenUp, EntryState.outstanding, hw, hi]

/-- An entry after its slot's reads are given up. -/
theorem State.dropReads_entry (s : State) (n : SlotId) (k : MemTag) :
    (s.dropReads n).entry k = (s.entry k).givenUp n (s.slot n).incarnation := by
  simp only [State.dropReads, State.modSlot_entry, State.freeWaiting_entry, State.orphan_entry, State.orphan_slot,
    Entry.givenUp_eq]

/-- The slot after its reads are given up. -/
theorem State.dropReads_slot_self (s : State) (n : SlotId) :
    (s.dropReads n).slot n = { s.slot n with ingress := queuedWritesOf (s.slot n).ingress, holdList := [] } := by
  simp only [State.dropReads, State.modSlot_slot_self, State.freeWaiting_slot, State.orphan_slot, Slot.discardReads,
    queuedWritesOf] <;> rfl

/-- Every other slot keeps what it has. -/
theorem State.dropReads_slot_of_ne (s : State) (n m : SlotId) (h : m ≠ n) : (s.dropReads n).slot m = s.slot m := by
  simp [State.dropReads, State.modSlot_slot_of_ne, h]

/-- Some entry of the tracker. -/
theorem State.any_entry (s : State) (p : Entry → Bool) :
    s.trk.entries.toList.any p = true ↔ ∃ k, p (s.entry k) = true := by
  simp only [List.any_eq_true, Vector.mem_toList_iff, Vector.mem_iff_getElem]
  constructor
  · rintro ⟨_, ⟨i, hi, rfl⟩, h⟩; exact ⟨⟨i, hi⟩, h⟩
  · rintro ⟨k, h⟩; exact ⟨_, ⟨k.val, k.isLt, rfl⟩, h⟩

/-- The Scrub Engine hears of the WAITING entries that are freed (R132). -/
theorem State.freeWaiting_scrubHears (s : State) (n : SlotId) : scrubHears s (s.freeWaiting n) [] := by
  have key : (∃ k, (s.entry k).freedWaiting n (s.slot n).incarnation = true) ↔
      ∃ k : MemTag, (s.entry k).state ≠ .free ∧ ((s.freeWaiting n).entry k).state = .free := by
    refine exists_congr fun k => ?_
    rw [State.freeWaiting_entry]
    by_cases h : (s.entry k).freedWaiting n (s.slot n).incarnation = true
    · rw [if_pos h]
      simp only [h, true_iff]
      refine ⟨fun hf => ?_, rfl⟩
      simp [Entry.freedWaiting, hf] at h
    · rw [if_neg h]; simp [h]
  unfold scrubHears
  simp only [← key, ne_eq, not_true_eq_false, false_or]
  rw [State.freeWaiting]
  simp only [State.any_entry]

/-- An orphaning neither frees an entry nor takes a free one. -/
theorem Entry.orphaned_free (e : Entry) (n : SlotId) (inc : Half) (sel : AccessKind → Bool) :
    (e.orphaned n inc sel).state = .free ↔ e.state = .free := by
  unfold Entry.orphaned; split
  · rename_i h
    simp only [reduceCtorEq, false_iff]
    intro hf; simp [hf, EntryState.outstanding] at h
  · rfl

/-- The Scrub Engine hears of the entries that giving up reads frees (R132). -/
theorem State.dropReads_scrubHears (s : State) (n : SlotId) : scrubHears s (s.dropReads n) [] := by
  have h := State.freeWaiting_scrubHears (s.orphan n isRead) n
  unfold scrubHears at h ⊢
  have e2 : ∀ k, ((s.orphan n isRead).entry k).state ≠ .free ↔ (s.entry k).state ≠ .free := fun k => by
    rw [State.orphan_entry, ne_eq, Entry.orphaned_free]
  simp only [e2, State.orphan_scrub] at h
  simp only [State.dropReads, State.modSlot_scrub, State.modSlot_entry]
  exact h

/-- Of the tracker only the entries change. -/
theorem State.dropReads_trk (s : State) (n : SlotId) :
    (s.dropReads n).trk = { s.trk with entries := (s.dropReads n).trk.entries } := by
  simp only [State.dropReads, State.modSlot_trk, State.freeWaiting, State.orphan]

/-- Giving up reads changes no value that the status block shows. -/
theorem State.dropReads_ring (s : State) (n : SlotId) : (s.dropReads n).ring = s.ring := by
  simp only [State.dropReads]
  rw [State.modSlot_ring_of_shown]
  · simp
  · simp [Slot.discardReads, Slot.shown]

/-- A slot that still has a request queued is not drained. -/
theorem State.drained_eq_false {s : State} {n : SlotId} (h : (s.slot n).ingress ≠ []) : s.drained n = false := by
  simp [State.drained, h]

/-- A slot with neither a queued request nor an entry in flight is drained. -/
theorem State.drained_eq_true {s : State} {n : SlotId} (h : (s.slot n).ingress = [])
    (k : s.inFlight (.slot n) = 0) : s.drained n = true := by
  simp [State.drained, h, k]

/-! ## Intake reopened -/

/-- With nothing held back on the link, reopening intake sets the mode and grants the free places (R63, R65). -/
theorem State.reopen_of_nil {s : State} {n : SlotId} (h : (s.slot n).heldBack = []) (mode : Intake) :
    s.reopen n mode = s.modSlot n fun sl => Slot.regrant { sl with intake := mode, heldBack := [] } := by
  simp [State.reopen, h]

/-! ## The link-down drain (R133, R141) -/

/-- A slot has nothing in flight exactly when no entry counts for it. -/
theorem State.inFlight_eq_zero_iff (s : State) (n : SlotId) :
    s.inFlight (.slot n) = 0 ↔ ∀ k, (s.entry k).countsFor n = false := by
  simp only [State.inFlight, List.countP_eq_zero, Bool.not_eq_true, Vector.mem_toList_iff, Vector.mem_iff_getElem]
  constructor
  · intro h k
    exact h _ ⟨k.val, k.isLt, rfl⟩
  · rintro h e ⟨i, hi, rfl⟩
    exact h ⟨i, hi⟩

/-- With the reads given up, a slot is drained exactly when no write of it is left. -/
theorem State.drained_dropReads (s : State) (n : SlotId) : (s.dropReads n).drained n = true ↔ ¬ s.writesLeft n := by
  unfold State.drained State.writesLeft
  simp only [Bool.and_eq_true, List.isEmpty_iff, beq_iff_eq, State.inFlight_eq_zero_iff, State.dropReads_slot_self,
    State.dropReads_entry, not_or, not_not, not_exists, Bool.not_eq_true]

/-- What is left to write does not depend on the link. -/
theorem State.writesLeft_isolate (s : State) (n : SlotId) : (s.isolate n).writesLeft n ↔ s.writesLeft n := by
  simp [State.writesLeft, State.isolate_slot, Slot.isolated, Slot.loseLink, Slot.discardPartly]

/-- The link isolated and the reads given up leave the drain's record. -/
theorem State.dropReads_isolate_slot (s : State) (n : SlotId) :
    ((s.isolate n).dropReads n).slot n = (s.slot n).drainOfWrites := by
  simp [State.dropReads_slot_self, State.isolate_slot, Slot.isolated, Slot.loseLink, Slot.discardPartly,
    Slot.drainOfWrites]

/-- Isolating a link and giving up reads change no value that the status block shows. -/
theorem State.dropReads_isolate_ring (s : State) (n : SlotId) : ((s.isolate n).dropReads n).ring = s.ring := by
  rw [State.dropReads_ring, State.isolate, State.modSlot_ring_of_shown]
  simp [Slot.shown, Slot.isolated, Slot.loseLink, Slot.discardPartly]

/-- What the Scrub Engine hears adds up where the later step frees no entry. -/
theorem scrubHears_trans {s s' t : State} {js : List Nat} (h : scrubHears s s' []) (k : scrubHears s' t js)
    (he : ∀ k, (t.entry k).state = (s'.entry k).state) : scrubHears s t js := by
  unfold scrubHears at *
  simp only [he] at k ⊢
  rw [k, h]
  by_cases hj : js = [] <;>
    by_cases hf : ∃ k : MemTag, (s.entry k).state ≠ .free ∧ (s'.entry k).state = .free <;> simp [hj, hf]

/-- A map released after entries were given up is released from the state before that. -/
theorem mapReleased_after {n : SlotId} {s s' t : State} (h : mapReleased n s' t) (hx : s'.ext = s.ext)
    (hm : (s'.slot n).map = (s.slot n).map) (hs : scrubHears s s' [])
    (he : ∀ k, (t.entry k).state = (s'.entry k).state) : mapReleased n s t := by
  obtain ⟨h1, js, h2, h3, h4, h5, h6⟩ := h
  have e1 : ∀ x, s'.extent x = s.extent x := fun x => by simp [State.extent, hx]
  simp only [e1, hm, hx] at h1 h3 h4 h5
  exact ⟨h1, js, h2, h3, h4, h5, scrubHears_trans hs h6 he⟩

/-- Everything that the end of VACATING can do (R151). -/
theorem State.endVacating_spec (s : State) (n : SlotId) :
    (s.endVacating n).slot n = (s.slot n).vacated s.now s.params.debounce ∧
      (∀ m, m ≠ n → (s.endVacating n).slot m = s.slot m) ∧ (s.endVacating n).trk = s.trk ∧
      (s.endVacating n).sb = s.sb ∧ mapReleased n s (s.endVacating n) ∧ keepsRest s (s.endVacating n) ∧
      (s.endVacating n).now = s.now ∧
      ∃ r : Ring, r = { s.ring with stale := r.stale } ∧
        ringNoticed n (r.postEvent (.vacated n (s.slot n).incarnation (s.slot n).forced (s.orphanCount n)
          (s.slot n).seated)) (s.endVacating n).ring := by
  refine ⟨?_, ?_, by simp [State.endVacating], by simp [State.endVacating],
    State.releaseMap_spec s n, by simp [State.endVacating, keepsRest], by simp [State.endVacating], ?_⟩
  · simp only [State.endVacating, State.modSlot_slot_self, State.postEvent_slot, State.releaseMap_slot, if_true]
    simp only [Slot.afterVacating, Slot.vacated, Slot.toSeating, Slot.toEmpty, Slot.count]
    cases (s.slot n).present <;> cases (s.slot n).seated <;> simp
  · intro m hm
    simp [State.endVacating, State.modSlot_slot_of_ne, hm, State.releaseMap_slot]
  · exact ⟨_, State.releaseMap_ring s n, State.modSlot_ring _ n _⟩

/-- A drain end takes no time. -/
theorem State.endDrain_now (s : State) (n : SlotId) : (s.endDrain n).now = s.now := by
  unfold State.endDrain
  dsimp only
  cases (s.slot n).pendingFault <;> simp

/-- A drain end shuts the slot down, with the event and the record that its pending fault gives (R144). -/
theorem State.endDrain_spec (s : State) (n : SlotId) :
    shutsDown n s (s.endDrain n) (s.slot n).drainEnded (drainEvent n (s.slot n) (s.orphanCount n)) := by
  unfold State.endDrain Slot.drainEnded drainEvent
  dsimp only
  cases (s.slot n).pendingFault with
  | none => exact shutsDown_of s n Slot.toRetired _
  | some p =>
    cases p
    · exact shutsDown_of s n (fun sl => sl.toFaulted .powerLost) _
    · exact shutsDown_of s n (fun sl => sl.toFaulted .link) _

/-- Everything that the beginning of a link-down drain can do: with a write left it gives up the reads alone, and without
one it ends the drain too. -/
theorem State.linkDownDrain_spec (s : State) (n : SlotId) :
    drainsLinkDown n s (s.linkDownDrain n) (s.slot n).drainOfWrites ∧ (s.linkDownDrain n).now = s.now ∧
      (s.writesLeft n → (s.linkDownDrain n).sb = s.sb ∧ (s.linkDownDrain n).ring = s.ring) := by
  have hd := State.drained_dropReads (s.isolate n) n
  rw [State.writesLeft_isolate] at hd
  have hs := State.dropReads_isolate_slot s n
  have hr := State.dropReads_isolate_ring s n
  have he : ∀ k, ((s.isolate n).dropReads n).entry k = (s.entry k).givenUp n (s.slot n).incarnation := by
    intro k
    rw [State.dropReads_entry]
    simp [State.isolate_slot, Slot.isolated, Slot.loseLink, Slot.discardPartly]
  have ht : ((s.isolate n).dropReads n).trk = { s.trk with entries := ((s.isolate n).dropReads n).trk.entries } := by
    rw [State.dropReads_trk]; simp
  have hm : ∀ m, m ≠ n → ((s.isolate n).dropReads n).slot m = s.slot m := by
    intro m hm; simp [State.dropReads_slot_of_ne, State.isolate_slot, hm]
  have hc : scrubHears s ((s.isolate n).dropReads n) [] := State.dropReads_scrubHears (s.isolate n) n
  by_cases hw : s.writesLeft n
  · have e : s.linkDownDrain n = (s.isolate n).dropReads n := by
      unfold State.linkDownDrain State.settleRetiring
      rw [if_neg (by rw [hd]; exact not_not.mpr hw)]
    rw [e]
    exact ⟨⟨hm, ⟨he, ht⟩, by simp [keepsRest], fun _ => ⟨hs, by simp, hc⟩, fun h => absurd hw h⟩, by simp,
      fun _ => ⟨by simp, hr⟩⟩
  · have e : s.linkDownDrain n = ((s.isolate n).dropReads n).endDrain n := by
      unfold State.linkDownDrain State.settleRetiring
      rw [if_pos (hd.mpr hw)]
    obtain ⟨g1, g2, g3, g4, g5, g6, g7, g8⟩ := State.endDrain_spec ((s.isolate n).dropReads n) n
    rw [e]
    refine ⟨⟨fun m h => (g2 m h).trans (hm m h), ⟨fun k => ?_, ?_⟩, ?_, fun h => absurd h hw,
      fun _ => ⟨?_, ?_, ?_, g6, ?_⟩⟩, ?_, fun h => absurd h hw⟩
    · rw [State.entry_of_trk_eq _ _ g3, he]
    · rw [g3, ht]
    · simpa [keepsRest] using g8
    · rw [g1, hs]
    · exact mapReleased_after g4 (by simp) (by rw [hs]; rfl) hc fun k => by rw [State.entry_of_trk_eq _ _ g3]
    · rw [g5]
      refine State.goesOn_congr (fun m => ?_) (by simp) _
      by_cases h : m = n
      · subst h; rw [hs]; rfl
      · rw [hm m h]
    · obtain ⟨r, k1, k2⟩ := g7
      refine ⟨r, ?_, ?_⟩
      · unfold ringShut at k1 ⊢
        rw [k1, hr]
        simp [State.jobsOf]
      · rw [k2, hs]
        simp only [State.orphanCount, g3]
    · rw [State.endDrain_now]; simp

end Sys2Proof.Machine
end

