-- ==== Sys2Proof/Laws/Access.lean ====
section
/-! SUPPORT. The Sideband Engine's access: what an acknowledgement,
a failure and the engine's next job make of the state
(R30 to R38). -/

namespace Sys2Proof.Machine

/-- LINE_CHECK and ACK_WAIT do not end by themselves (R30). -/
theorem Sideband.pass_wait (sb : Sideband) (now) (h : sb.phase = .lineCheck ∨ sb.phase = .ackWait) :
    sb.pass now = sb := by
  rcases h with h | h <;> simp [Sideband.pass, h]

/-- A request job that fails is answered TIMEOUT, and the engine goes on (R32, R37). -/
theorem State.failJob_request (s : State) {n w reg d seq} (h : s.sb.running = some (.request n w reg d seq)) :
    s.failJob = { s with
      sb := s.goesOn s.sb.jobEnded, ring := s.ring.respond (sidebandAnswer n seq .timeout reg 0) } := by
  simp only [State.failJob, h, State.nextJob_eq]
  rfl

/-- A request job that succeeds is answered OK, and the engine goes on (R32, R37). -/
theorem State.succeedAccess_request (s : State) (data : Half) {n w reg d seq}
    (h : s.sb.running = some (.request n w reg d seq)) :
    s.succeedAccess data = { s with
      sb := s.goesOn s.sb.jobEnded
      ring := s.ring.respond (sidebandAnswer n seq .ok reg (if w then d else data)) } := by
  simp only [State.succeedAccess, h, State.nextJob_eq]
  rfl

/-- After a cancellation the engine has gone on already. -/
theorem shutsDown_nextJob {n : SlotId} {s t : State} {sl e} (h : shutsDown n s t sl e) :
    shutsDown n s t.nextJob sl e := by
  have hs : t.nextJob = t := by
    rw [State.nextJob_eq, State.goesOn_self]
    rw [h.2.2.2.2.1]; exact State.settled_goesOn _ _
  rw [hs]; exact h

/-- A failed identity job faults its slot (R6, R34, R35). -/
theorem State.identityFailed_shutsDown (s1 : State) (n : SlotId) (c : FaultCause) (hc : c ≠ .lane) :
    shutsDown n s1 (s1.identityFailed n c) { (s1.slot n).faulted c with identityOk := false }
      (.faulted n (s1.slot n).incarnation (s1.slot n).forced 0 c 0) := by
  have e2 : s1.identityFailed n c =
      (((s1.modSlot n fun sl => { sl with identityOk := false }).shutDown n).modSlot n fun sl =>
        sl.toFaulted c).postEvent (.faulted n (s1.slot n).incarnation (s1.slot n).forced 0 c 0) := by
    simp only [State.identityFailed, State.faultSlot, State.modSlot_slot_self, faultMask, hc, if_false]
  rw [e2]
  exact shutsDown_of_modSlot s1 n (fun sl => { sl with identityOk := false }) (fun sl => sl.toFaulted c) _ rfl rfl

/-- An identity job that fails in IDENTIFYING faults its slot with IDENTITY_TIMEOUT (R34, R35). -/
theorem State.failJob_identity (s : State) {n ws} (h : s.sb.running = some (.identity n ws))
    (hs : (s.slot n).state = .identifying) :
    shutsDown n { s with sb := s.sb.jobEnded } s.failJob
      { (s.slot n).faulted .identityTimeout with identityOk := false }
      (.faulted n (s.slot n).incarnation (s.slot n).forced 0 .identityTimeout 0) := by
  have e : s.failJob = (({ s with sb := s.sb.idle } : State).identityFailed n .identityTimeout).nextJob := by
    have hs' : (({ s with sb := s.sb.idle } : State).slot n).state = .identifying := hs
    simp only [State.failJob, h, State.identityOutcome, hs', if_true]
  rw [e]
  exact shutsDown_nextJob (State.identityFailed_shutsDown { s with sb := s.sb.idle } n .identityTimeout (by simp))

/-- Any other identity job that fails ends with nothing further: the engine goes on (R32, R35). -/
theorem State.failJob_identity_left (s : State) {n ws} (h : s.sb.running = some (.identity n ws))
    (hs : (s.slot n).state ≠ .identifying) : s.failJob = { s with sb := s.goesOn s.sb.jobEnded } := by
  have hs' : (({ s with sb := s.sb.idle } : State).slot n).state ≠ .identifying := hs
  simp only [State.failJob, h, State.identityOutcome, if_neg hs', State.nextJob_eq]
  rfl

/-! ## Time (log 5) -/

/-- What a microsecond, or several, may change of a part in which they pass: nothing of the tracker, the control port, the
parameters, the straps and the queue of commands; of a slot that is not IDENTIFYING only the level of its SBDAT. -/
def passesTime (s t : State) : Prop :=
  t.trk = s.trk ∧ t.ctl = s.ctl ∧ t.params = s.params ∧ t.attachSel = s.attachSel ∧ t.pending = s.pending ∧
    t.ring.state = s.ring.state ∧
    ∀ n, (s.slot n).state ≠ .identifying → t.slot n = { s.slot n with sbdatLow := (t.slot n).sbdatLow }

theorem passesTime_refl (s : State) : passesTime s s := ⟨rfl, rfl, rfl, rfl, rfl, rfl, fun _ _ => rfl⟩

theorem passesTime_trans {s t u : State} (h : passesTime s t) (k : passesTime t u) : passesTime s u := by
  obtain ⟨h1, h2, h3, h4, h5, h6, h7⟩ := h
  obtain ⟨k1, k2, k3, k4, k5, k6, k7⟩ := k
  refine ⟨k1.trans h1, k2.trans h2, k3.trans h3, k4.trans h4, k5.trans h5, k6.trans h6, fun n hn => ?_⟩
  have a := h7 n hn
  have b := k7 n (by rw [a]; exact hn)
  rw [a] at b
  exact b

/-- A change of the engine, the moment and the counter of free values passes time. -/
theorem passesTime_of {s t : State} (h1 : t.trk = s.trk) (h2 : t.ctl = s.ctl) (h3 : t.params = s.params)
    (h4 : t.attachSel = s.attachSel) (h5 : t.pending = s.pending) (h6 : t.ring.state = s.ring.state)
    (h7 : t.slots = s.slots) : passesTime s t :=
  ⟨h1, h2, h3, h4, h5, h6, fun n _ => by simp [State.slot, h7]⟩

/-- The end of a failed job passes time. -/
theorem State.failJob_passesTime (s : State) : passesTime s s.failJob := by
  cases h : s.sb.running with
  | none => simp only [State.failJob, h]; exact passesTime_refl s
  | some j =>
    cases j with
    | request n w reg d seq =>
      rw [State.failJob_request s h]
      exact passesTime_of rfl rfl rfl rfl rfl rfl rfl
    | identity n ws =>
      by_cases hs : (s.slot n).state = .identifying
      · obtain ⟨-, a2, a3, -, -, -, ⟨r, a7, a8⟩, a9, a10, a11, -, a12⟩ := State.failJob_identity s h hs
        refine ⟨a3, a9, a10, a11, a12, ?_, fun m hm => ?_⟩
        · rw [a8, Ring.postEvent_state, a7]
        · rw [a2 m (by rintro rfl; exact hm hs)]; rfl
      · rw [State.failJob_identity_left s h hs]
        exact passesTime_of rfl rfl rfl rfl rfl rfl rfl

/-- The end of a failed job takes no time. -/
theorem State.failJob_now (s : State) : s.failJob.now = s.now := by
  cases h : s.sb.running with
  | none => simp only [State.failJob, h]
  | some j =>
    cases j with
    | request n w reg d seq => rw [State.failJob_request s h]
    | identity n ws =>
      simp only [State.failJob, h, State.identityOutcome]
      split <;> simp [State.identityFailed, State.faultSlot]

/-- The failure of an access passes time, and takes none. -/
theorem State.failAccess_passesTime (s : State) : passesTime s s.failAccess ∧ s.failAccess.now = s.now := by
  unfold State.failAccess
  split
  · exact ⟨passesTime_of rfl rfl rfl rfl rfl rfl rfl, rfl⟩
  · exact ⟨State.failJob_passesTime s, State.failJob_now s⟩

/-- A change of one slot's line leaves every slot but for the level of its SBDAT. -/
theorem State.modSlot_line (s : State) (m n : SlotId) (low : Bool) :
    (s.modSlot m fun sl => { sl with sbdatLow := low }).slot n =
      { s.slot n with sbdatLow := ((s.modSlot m fun sl => { sl with sbdatLow := low }).slot n).sbdatLow } := by
  rw [State.modSlot_slot]
  split
  · rename_i e; subst e; rfl
  · rfl

/-- The sample of the line passes time, and takes none. -/
theorem State.sampleLine_passesTime (s : State) : passesTime s s.sampleLine ∧ s.sampleLine.now = s.now := by
  unfold State.sampleLine
  split
  · rename_i j _ _
    split
    · refine ⟨⟨by simp, by simp, by simp, by simp, by simp, ?_, fun n _ => ?_⟩, by simp⟩
      · change (s.modSlot j.slot fun sl => { sl with sbdatLow := false }).ring.state = s.ring.state
        rw [State.modSlot_ring_eq]
      · exact State.modSlot_line s j.slot n false
    · exact ⟨passesTime_of rfl rfl rfl rfl rfl rfl rfl, rfl⟩
  all_goals exact ⟨passesTime_refl s, rfl⟩

/-- Everything that a microsecond does outside the Sideband Engine and the slot that it identifies. -/
theorem State.tick_passesTime (s : State) : passesTime s s.tick ∧ s.tick.now = s.now + 1 := by
  have hf : passesTime s s.failOverdue ∧ s.failOverdue.now = s.now := by
    unfold State.failOverdue
    split
    · split
      · exact State.failAccess_passesTime s
      · exact ⟨passesTime_refl s, rfl⟩
    · split
      · exact State.failAccess_passesTime s
      · exact ⟨passesTime_refl s, rfl⟩
    all_goals exact ⟨passesTime_refl s, rfl⟩
  have h1 : passesTime s ({ s.failOverdue with now := s.now + 1 } : State) := hf.1
  have h2 := State.sampleLine_passesTime ({ s.failOverdue with now := s.now + 1 } : State)
  have he : ∀ u : State, passesTime u u.endFailed ∧ u.endFailed.now = u.now := by
    intro u
    unfold State.endFailed
    split
    · exact ⟨State.failJob_passesTime u, State.failJob_now u⟩
    · exact ⟨passesTime_refl u, rfl⟩
  have h3 := he ({ State.sampleLine { s.failOverdue with now := s.now + 1 } with
    sb := (State.sampleLine { s.failOverdue with now := s.now + 1 }).sb.pass
      (State.sampleLine { s.failOverdue with now := s.now + 1 }).now } : State)
  exact ⟨passesTime_trans h1 (passesTime_trans h2.1 h3.1), h3.2.trans h2.2⟩

/-- Several microseconds. -/
theorem State.elapse_passesTime (k : Nat) (s : State) : passesTime s (s.elapse k) ∧ (s.elapse k).now = s.now + k := by
  induction k generalizing s with
  | zero => exact ⟨passesTime_refl s, rfl⟩
  | succ k ih =>
    have h := State.tick_passesTime s
    have := ih s.tick
    exact ⟨passesTime_trans h.1 this.1, by rw [State.elapse, this.2, h.2]; omega⟩

/-- Everything that the time up to a moment does outside the Sideband Engine and the slot that it identifies. -/
theorem State.reach_passesTime (s : State) (t : Nat) : passesTime s (s.reach t) ∧ (s.reach t).now = max s.now t := by
  have h := State.elapse_passesTime (t - s.now) s
  exact ⟨h.1, h.2.trans (by omega)⟩

/-- A moment that has passed is reached. -/
theorem State.reach_self (s : State) (t : Nat) (h : t ≤ s.now) : s.reach t = s := by
  unfold State.reach; rw [Nat.sub_eq_zero_of_le h]; rfl

/-- The moment after a moment is reached through it. -/
theorem State.elapse_add (j k : Nat) (s : State) : s.elapse (j + k) = (s.elapse j).elapse k := by
  induction j generalizing s with
  | zero => rw [Nat.zero_add]; rfl
  | succ j ih => rw [Nat.succ_add]; exact ih s.tick

end Sys2Proof.Machine
end

