-- ==== Sys2Proof/Laws/Commit.lean ====
section
/-! SUPPORT. COMMIT: what its examination answers against the checks of R93 and R94, what the claims
make of one extent, and how often an extent is released (R88, R95, R99). -/

namespace Sys2Proof.Machine

/-! ### The examination -/

/-- The non-empty entries of a list with their indexes, counted from `k`. -/
def indexedFrom (l : List (Option MapEntry)) (k : Nat) : List (Nat × MapEntry) :=
  (l.zipIdx k).filterMap fun p => p.1.map fun e => (p.2, e)

theorem indexedEntries_eq (m : Vector (Option MapEntry) 32) : indexedEntries m = indexedFrom m.toList 0 := rfl

/-- What one staging entry's checks answer, against the checks of R93 and R94, given the entries of lower index. -/
theorem State.commitFault_spec (s : State) (n : SlotId) (before : List MapEntry) (i : Nat) (e : MapEntry)
    (hi : (s.slot n).staging[i]? = some (some e))
    (hb : ∀ b, b ∈ before ↔ ∃ j, j < i ∧ (s.slot n).staging[j]? = some (some b)) :
    (s.commitFault n before e = none → ∀ c, ¬ s.commitFails n i c) ∧
    (∀ c f, s.commitFault n before e = some (c, f) → s.commitFails n i c ∧
      (∀ d, d < c → ¬ s.commitFails n i d) ∧
      f = if c = 4 then some (s.extent e.extent).state else none) := by
  have hc : ∀ c, s.commitFails n i c ↔ ((c = 1 ∧ s.ext.count ≤ e.extent) ∨
      (c = 2 ∧ before.any (fun b => b.page == e.page) = true) ∨
      (c = 3 ∧ before.any (fun b => b.extent == e.extent) = true) ∨
      (c = 4 ∧ (s.extent e.extent).acceptable n e.rw = false)) := by
    intro c
    have ha : (s.extent e.extent).acceptable n e.rw = false ↔ (s.extent e.extent).unacceptable n e.rw := by
      cases h : (s.extent e.extent).state <;> simp [Extent.acceptable, Extent.unacceptable, h]
      cases (s.extent e.extent).withdrawn <;> simp
    have h2 : before.any (fun b => b.page == e.page) = true ↔ ∃ j b, j < i ∧
        (s.slot n).staging[j]? = some (some b) ∧ b.page = e.page := by
      simp only [List.any_eq_true, hb, beq_iff_eq]
      constructor
      · rintro ⟨b, ⟨j, h1, h2⟩, h3⟩; exact ⟨j, b, h1, h2, h3⟩
      · rintro ⟨j, b, h1, h2, h3⟩; exact ⟨b, ⟨j, h1, h2⟩, h3⟩
    have h3 : before.any (fun b => b.extent == e.extent) = true ↔ ∃ j b, j < i ∧
        (s.slot n).staging[j]? = some (some b) ∧ b.extent = e.extent := by
      simp only [List.any_eq_true, hb, beq_iff_eq]
      constructor
      · rintro ⟨b, ⟨j, h1, h2⟩, h3⟩; exact ⟨j, b, h1, h2, h3⟩
      · rintro ⟨j, b, h1, h2, h3⟩; exact ⟨b, ⟨j, h1, h2⟩, h3⟩
    rw [h2, h3, ha]
    unfold State.commitFails
    constructor
    · rintro ⟨e', h, k⟩
      rw [hi] at h; simp at h; subst h; exact k
    · intro k; exact ⟨e, hi, k⟩
  simp only [hc]
  unfold State.commitFault
  by_cases q1 : s.ext.count ≤ e.extent
  · simp only [q1, if_true]
    refine ⟨by simp, ?_⟩
    rintro c f h; simp at h; obtain ⟨rfl, rfl⟩ := h
    refine ⟨by simp, ?_, by simp⟩
    intro d hd; simp; omega
  · by_cases q2 : before.any (fun b => b.page == e.page) = true
    · simp only [q1, if_false, q2, if_true]
      refine ⟨by simp, ?_⟩
      rintro c f h; simp at h; obtain ⟨rfl, rfl⟩ := h
      refine ⟨by simp, ?_, by simp⟩
      intro d hd; simp; omega
    · by_cases q3 : before.any (fun b => b.extent == e.extent) = true
      · simp only [q1, if_false, q2, q3, if_true]
        refine ⟨by simp, ?_⟩
        rintro c f h; simp at h; obtain ⟨rfl, rfl⟩ := h
        refine ⟨by simp, ?_, by simp⟩
        intro d hd; simp; omega
      · by_cases q4 : (s.extent e.extent).acceptable n e.rw = false
        · simp only [q1, if_false, q2, q3, q4, if_true]
          refine ⟨by simp, ?_⟩
          rintro c f h; simp at h; obtain ⟨rfl, rfl⟩ := h
          refine ⟨by simp, ?_, by simp⟩
          intro d hd; simp; omega
        · simp only [q1, if_false, q2, q3, q4]
          refine ⟨?_, by simp⟩
          intro _ c; simp

/-- What the examination answers from index `pre.length` on, when no lower index fails. -/
theorem State.commitFirst_from (s : State) (n : SlotId) (l pre : List (Option MapEntry)) (before : List MapEntry)
    (hL : (s.slot n).staging.toList = pre ++ l) (hb : ∀ b, b ∈ before ↔ some b ∈ pre)
       (hp : ∀ j, j < pre.length → ∀ d, ¬ s.commitFails n j d) :
    (s.commitFirst n before (indexedFrom l pre.length) = none → ∀ i c, ¬ s.commitFails n i c) ∧
    (∀ i c f, s.commitFirst n before (indexedFrom l pre.length) = some (i, c, f) → s.commitFailsFirst n i c ∧
      ∃ e, (s.slot n).staging[i]? = some (some e) ∧
        f = if c = 4 then some (s.extent e.extent).state else none) := by
  have hget : ∀ i : Nat, (s.slot n).staging[i]? = (pre ++ l)[i]? := by
    intro i; rw [← hL]; simp
  induction l generalizing pre before with
  | nil =>
    refine ⟨?_, by simp [indexedFrom, State.commitFirst]⟩
    intro _ i c
    by_cases h : i < pre.length
    · exact hp i h c
    · rintro ⟨e, he, _⟩
      rw [hget] at he; simp at he; rw [List.getElem?_eq_none (by omega)] at he; simp at he
  | cons o l ih =>
    have hL' : (s.slot n).staging.toList = (pre ++ [o]) ++ l := by simp [hL]
    have hget' : ∀ i : Nat, (s.slot n).staging[i]? = ((pre ++ [o]) ++ l)[i]? := by intro i; rw [hget]; simp
    have hlen : (pre ++ [o]).length = pre.length + 1 := by simp
    have hoi : (s.slot n).staging[pre.length]? = some o := by rw [hget]; simp
    cases o with
    | none =>
      have hg : indexedFrom (none :: l) pre.length = indexedFrom l (pre ++ [none]).length := by
          simp [indexedFrom, List.zipIdx_cons]
      rw [hg]
      refine ih (pre ++ [none]) before hL' (by intro b; simp [hb]) ?_ hget'
      intro j hj d
      rw [hlen] at hj
      by_cases h : j < pre.length
      · exact hp j h d
      · have : j = pre.length := by omega
        subst this
        rintro ⟨e, he, _⟩
        rw [hoi] at he; simp at he
    | some e =>
      have hg : indexedFrom (some e :: l) pre.length = (pre.length, e) :: indexedFrom l (pre ++ [some e]).length := by
          simp [indexedFrom, List.zipIdx_cons]
      rw [hg]
      have hbi : ∀ b, b ∈ before ↔ ∃ j, j < pre.length ∧ (s.slot n).staging[j]? = some (some b) := by
        intro b; rw [hb, List.mem_iff_getElem?]
        constructor
        · rintro ⟨j, hj⟩
          have hjl := (List.getElem?_eq_some_iff.mp hj).1
          exact ⟨j, hjl, by rw [hget, List.getElem?_append_left hjl]; exact hj⟩
        · rintro ⟨j, hjl, hj⟩
          exact ⟨j, by rw [hget, List.getElem?_append_left hjl] at hj; exact hj⟩
      obtain ⟨f1, f2⟩ := State.commitFault_spec s n before pre.length e hoi hbi
      simp only [State.commitFirst]
      rcases hf : s.commitFault n before e with _ | ⟨c, f⟩
      · simp only
        refine ih (pre ++ [some e]) (e :: before) hL' (by intro b; simp [hb]; tauto) ?_ hget'
        intro j hj d
        rw [hlen] at hj
        by_cases h : j < pre.length
        · exact hp j h d
        · have : j = pre.length := by omega
          subst this; exact f1 hf d
      · simp only
        refine ⟨by simp, ?_⟩
        intro i c' f' h
        simp at h; obtain ⟨rfl, rfl, rfl⟩ := h
        obtain ⟨g1, g2, g3⟩ := f2 c f hf
        exact ⟨⟨g1, g2, hp⟩, e, hoi, g3⟩

/-- What the examination of a COMMIT answers, against the checks of R93 and R94: none when no entry
fails, else the first entry to fail, its first failing check, and the state found for check d. -/
theorem State.commitFirst_spec (s : State) (n : SlotId) :
    (s.commitFirst n [] (indexedEntries (s.slot n).staging) = none → ∀ i c, ¬ s.commitFails n i c) ∧
    (∀ i c f, s.commitFirst n [] (indexedEntries (s.slot n).staging) = some (i, c, f) → s.commitFailsFirst n i c ∧
      ∃ e, (s.slot n).staging[i]? = some (some e) ∧
        f = if c = 4 then some (s.extent e.extent).state else none) := by
  rw [indexedEntries_eq]
  exact State.commitFirst_from s n _ [] [] rfl (by simp) (by simp)

/-- The first to fail is one. -/
theorem State.commitFailsFirst_unique {s : State} {n i c i' c'} (h : s.commitFailsFirst n i c)
    (h' : s.commitFailsFirst n i' c') : i = i' ∧ c = c' := by
  obtain ⟨a1, a2, a3⟩ := h
  obtain ⟨b1, b2, b3⟩ := h'
  have hi : i = i' := by
    rcases Nat.lt_trichotomy i i' with h | h | h
    · exact absurd a1 (b3 i h c)
    · exact h
    · exact absurd b1 (a3 i' h c')
  subst hi
  refine ⟨rfl, ?_⟩
  rcases Nat.lt_trichotomy c c' with h | h | h
  · exact absurd a1 (b2 c h)
  · exact h
  · exact absurd b1 (a2 c' h)

/-! ### The claims and the releases -/

/-- The claim of one extent leaves every other. -/
theorem State.claimExtent_extent_of_ne (s : State) (n : SlotId) (old : List MapEntry) (x y : Nat) (h : y ≠ x) :
    (s.claimExtent n old x).extent y = s.extent y := by
  unfold State.claimExtent
  split
  · exact State.setExtent_extent_of_ne _ _ _ _ h
  · split
    · rfl
    · exact State.setExtent_extent_of_ne _ _ _ _ h
  all_goals rfl

/-- The claims leave an extent that they do not name. -/
theorem State.claims_extent_of_not_mem (n : SlotId) (old : List MapEntry) (xs : List Nat) (y : Nat) (s : State)
    (h : y ∉ xs) : (xs.foldl (fun s x => s.claimExtent n old x) s).extent y = s.extent y := by
  induction xs generalizing s with
  | nil => rfl
  | cons x xs ih =>
    rw [List.mem_cons, not_or] at h
    exact (ih _ h.2).trans (State.claimExtent_extent_of_ne s n old x y h.1)

/-- An OWNED extent stays as it is. -/
theorem State.claims_owned (n : SlotId) (old : List MapEntry) (xs : List Nat) (y : Nat) (s : State)
    (h : (s.extent y).state = .owned) : (xs.foldl (fun s x => s.claimExtent n old x) s).extent y = s.extent y := by
  induction xs generalizing s with
  | nil => rfl
  | cons x xs ih =>
    have h1 : (s.claimExtent n old x).extent y = s.extent y := by
      by_cases hx : y = x
      · subst hx; simp [State.claimExtent, h]
      · exact State.claimExtent_extent_of_ne s n old x y hx
    exact (ih _ (by rw [h1]; exact h)).trans h1

/-- A FREE extent that is named becomes OWNED. -/
theorem State.claims_free (n : SlotId) (old : List MapEntry) (xs : List Nat) (y : Nat) (hy : y < 2048) (s : State)
    (hm : y ∈ xs) (h : (s.extent y).state = .free) :
    (xs.foldl (fun s x => s.claimExtent n old x) s).extent y = ⟨.owned, some n, 0, false⟩ := by
  induction xs generalizing s with
  | nil => simp at hm
  | cons x xs ih =>
    by_cases hx : y = x
    · subst hx
      have hc : (s.claimExtent n old y).extent y = ⟨.owned, some n, 0, false⟩ := by
        simp [State.claimExtent, h, State.setExtent_extent_self, hy]
      exact (State.claims_owned n old xs y _ (by rw [hc])).trans hc
    · exact ih _ ((List.mem_cons.mp hm).resolve_left hx)
        (by rw [State.claimExtent_extent_of_ne s n old x y hx]; exact h)

/-- A SHARED extent that is named once gains 1 in its count unless the old map names it. -/
theorem State.claims_shared (n : SlotId) (old : List MapEntry) (xs : List Nat) (y : Nat) (hy : y < 2048) (s : State)
    (hm : y ∈ xs) (hnd : xs.Nodup) (h : (s.extent y).state = .shared) :
    (xs.foldl (fun s x => s.claimExtent n old x) s).extent y =
      if old.any (fun o => o.extent == y) = true then s.extent y
      else { s.extent y with refs := (s.extent y).refs + 1 } := by
  induction xs generalizing s with
  | nil => simp at hm
  | cons x xs ih =>
    rw [List.nodup_cons] at hnd
    by_cases hx : y = x
    · subst hx
      rw [List.foldl_cons, State.claims_extent_of_not_mem n old xs y _ hnd.1]
      simp only [State.claimExtent, h]
      split
      · rfl
      · rw [State.setExtent_extent_self _ _ _ hy]
    · have h1 := State.claimExtent_extent_of_ne s n old x y hx
      rw [List.foldl_cons, ih _ ((List.mem_cons.mp hm).resolve_left hx) hnd.2 (by rw [h1]; exact h), h1]

/-- A staging set with no failing entry names no extent twice. -/
theorem State.staging_nodup (s : State) (n : SlotId) (h : ∀ i c, ¬ s.commitFails n i c) :
    ((mapEntries (s.slot n).staging).map MapEntry.extent).Nodup := by
  rw [List.Nodup, List.pairwise_map]
  unfold mapEntries
  rw [List.pairwise_filterMap, List.pairwise_iff_getElem]
  intro i j hi hj hij b hb e he heq
  simp at hb he
  refine h j 3 ⟨e, ?_, .inr (.inr (.inl ⟨rfl, i, b, hij, ?_, heq⟩))⟩
  · rw [Vector.getElem?_eq_getElem (by simpa using hj)]; simp [he]
  · rw [Vector.getElem?_eq_getElem (by simpa using hi)]; simp [hb]

/-- An extent is named by some entry. -/
theorem countP_extent_pos (l : List MapEntry) (x : Nat) :
    0 < l.countP (fun e => e.extent == x) ↔ x ∈ l.map MapEntry.extent := by
  rw [List.countP_pos_iff]; simp

/-- An extent that the new map does not name is released once for each entry of the old map that names it (R95). -/
theorem count_releasedExtents (old new : List MapEntry) (x : Nat) (h : x ∉ new.map MapEntry.extent) :
    (releasedExtents old new).count x = old.countP (fun e => e.extent == x) := by
  unfold releasedExtents
  rw [List.count_eq_countP, List.countP_map, List.countP_filter]
  refine List.countP_congr ?_
  intro o _
  simp only [Function.comp, Bool.and_eq_true, beq_iff_eq, Bool.not_eq_true', List.any_eq_false]
  constructor
  · exact fun k => k.1
  · rintro rfl
    exact ⟨rfl, fun e he hh => h (by simp only [List.mem_map]; exact ⟨e, he, hh⟩)⟩

end Sys2Proof.Machine
end

