-- ==== Sys2Proof/Laws/Port.lean ====
section
/-! SUPPORT. The memory port and the control port: what a grant, a hand-back, a completion and
an attach make of the state, each said once in the terms of the statements (R114, R117, R128, R179, R181 to R183,
R186). -/

namespace Sys2Proof.Machine

/-! ### The decision (R108, R110, R111, R113, R114, R188) -/

/-- The lowest-numbered FREE entry is the one that a grant takes (R114). -/
theorem State.freeTag_of_lowestFree {s : State} {k : MemTag} (h : s.lowestFree k) : s.freeTag = some k := by
  unfold State.freeTag
  rw [List.find?_eq_some_iff_getElem]
  refine ⟨by simp [h.1], k.val, by simp, by simp, fun j hj => ?_⟩
  have := h.2 ⟨j, by omega⟩ (Fin.lt_def.2 hj)
  simpa using this

/-- The entry that a grant takes is the lowest-numbered FREE one (R114). -/
theorem State.lowestFree_of_freeTag {s : State} {k : MemTag} (h : s.freeTag = some k) : s.lowestFree k := by
  unfold State.freeTag at h
  obtain ⟨hk, i, hi, e, hj⟩ := List.find?_eq_some_iff_getElem.1 h
  refine ⟨by simpa using hk, fun j hjk => ?_⟩
  have hi' : i = k.val := by simpa using congrArg Fin.val e
  have := hj j.val (by have := Fin.lt_def.1 hjk; omega)
  simpa using this

/-- With no FREE entry there is none to take (R112). -/
theorem State.freeTag_eq_none {s : State} (h : ∀ k, (s.entry k).state ≠ .free) : s.freeTag = none := by
  simp [State.freeTag, List.find?_eq_none, h]

/-- A participant is eligible as the statements say it (R110, R111, R113, R172, R188). -/
theorem State.eligible_iff (s : State) (p : Participant) : s.eligible p = true ↔ s.mayGo p := by
  unfold State.eligible State.mayGo State.cap State.hasHead
  cases p with
  | slot n => simp
  | control => simp
  | ring =>
    have h : s.statusWriteIssued = true ↔
        ∃ k u, (s.entry k).state = .issued ∧ (s.entry k).who = .ring ∧ (s.entry k).tag = .ring (.status u) := by
      unfold State.statusWriteIssued
      rw [State.any_entry]
      refine exists_congr fun k => ?_
      cases h : (s.entry k).tag with
      | ring t => cases t <;> simp
      | none | blade | control | trailing | scrub => simp
    have h' : (!s.statusWriteIssued) = true ↔
        ∀ k u, ¬ ((s.entry k).state = .issued ∧ (s.entry k).who = .ring ∧ (s.entry k).tag = .ring (.status u)) := by
      rw [Bool.not_eq_true', ← Bool.not_eq_true, h]
      exact ⟨fun x k u y => x ⟨k, u, y⟩, fun x ⟨k, u, y⟩ => x k u y⟩
    simp only [Bool.and_eq_true, decide_eq_true_eq, h']
    simp only [Bool.not_eq_true', List.isEmpty_eq_false_iff]
    tauto
  | scrub =>
    have h : s.paceMet = true ↔ ∀ m, s.trk.lastScrub = some m → m + s.trk.pace ≤ s.now := by
      unfold State.paceMet; cases s.trk.lastScrub <;> simp
    simp only [Bool.and_eq_true, decide_eq_true_eq, h, Option.isSome_iff_ne_none]
    tauto

/-- The circle from the pointer holds every participant. -/
theorem mem_circleFrom (p ptr : Participant) : p ∈ circleFrom ptr := by
  have h : p ∈ circle := by cases p <;> simp [circle]
  rw [← List.take_append_drop ptr.code circle] at h
  simp only [circleFrom, List.mem_append] at h ⊢
  exact h.symm

/-- The circle from the pointer stands in the order of `behind` (R110). -/
theorem circleFrom_sorted (ptr : Participant) :
    (circleFrom ptr).Pairwise fun a b => a.behind ptr < b.behind ptr := by
  cases ptr with
  | slot n => revert n; decide +kernel
  | control | ring | scrub => decide +kernel

/-- What stands before the found element of a list in order does not pass. -/
theorem find?_sorted {α : Type} {l : List α} {f : α → Nat} {e : α → Bool} (hs : l.Pairwise fun a b => f a < f b) {p q : α}
    (hp : l.find? e = some p) (hq : q ∈ l) (h : f q < f p) : e q = false := by
  obtain ⟨-, as, bs, rfl, ha⟩ := List.find?_eq_some_iff_append.1 hp
  rw [List.mem_append, List.mem_cons] at hq
  rw [List.pairwise_append, List.pairwise_cons] at hs
  rcases hq with hq | rfl | hq
  · simpa using ha q hq
  · omega
  · have := hs.2.1.1 q hq; omega

/-- The decision finds the participant of R110. -/
theorem State.find_of_grantsNext {s : State} {p : Participant} (h : s.grantsNext p) :
    (circleFrom s.trk.pointer).find? s.eligible = some p := by
  have hp := (s.eligible_iff p).2 h.1
  obtain ⟨q, hq⟩ := Option.isSome_iff_exists.1
    (List.find?_isSome.2 ⟨p, mem_circleFrom p s.trk.pointer, hp⟩)
  have hs := circleFrom_sorted s.trk.pointer
  have hq' := (s.eligible_iff q).1 (List.find?_some hq)
  by_cases e : q = p
  · rw [hq, e]
  · exfalso
    have hne : q.behind s.trk.pointer ≠ p.behind s.trk.pointer := by
      obtain ⟨i, hi, e1⟩ := List.getElem_of_mem (mem_circleFrom q s.trk.pointer)
      obtain ⟨j, hj, e2⟩ := List.getElem_of_mem (mem_circleFrom p s.trk.pointer)
      have hp := List.pairwise_iff_getElem.1 hs
      rcases Nat.lt_trichotomy i j with h1 | h1 | h1
      · have := hp i j hi hj h1; rw [e1, e2] at this; omega
      · subst h1; exact absurd (e1.symm.trans e2) e
      · have := hp j i hj hi h1; rw [e1, e2] at this; omega
    rcases Nat.lt_or_gt_of_ne hne with h1 | h1
    · exact h.2 q h1 hq'
    · have := find?_sorted hs hq (mem_circleFrom p _) h1
      rw [hp] at this; cases this

/-- Whom the decision finds is granted next (R110). -/
theorem State.grantsNext_of_find {s : State} {p : Participant}
    (h : (circleFrom s.trk.pointer).find? s.eligible = some p) : s.grantsNext p :=
  ⟨(s.eligible_iff p).1 (List.find?_some h), fun q hq hm => by
    have := find?_sorted (circleFrom_sorted s.trk.pointer) h (mem_circleFrom q _) hq
    rw [(s.eligible_iff q).2 hm] at this; cases this⟩

/-- The decision finds nobody where none may go. -/
theorem State.find_eq_none {s : State} (h : ∀ p, ¬ s.mayGo p) : (circleFrom s.trk.pointer).find? s.eligible = none := by
  rw [List.find?_eq_none]
  intro p _ hp
  exact h p ((s.eligible_iff p).1 hp)

/-! ### Grants and the control link -/

/-- A control write covers a byte with a value exactly as R179 says. -/
theorem controlCovers_iff (r : ControlReq) (a : Nat) (v : Byte) : controlCovers r a = some v ↔ coversWith r a v := by
  unfold controlCovers coversWith
  constructor
  · intro h
    split at h
    · rename_i hk
      obtain ⟨h1, h2, h3⟩ := hk
      simp only at h
      split at h
      · rename_i b hb
        split at h
        · rename_i hm
          refine ⟨h1, (a - r.addr.toNat) / 8, (a - r.addr.toNat) % 8, b, by omega, by omega, by omega, hb, hm, ?_⟩
          simpa using h
        · simp at h
      · simp at h
    · simp at h
  · rintro ⟨h1, i, j, b, hi, hj, ha, hb, hm, hv⟩
    rw [if_pos ⟨h1, by omega, by omega⟩]
    have e1 : (a - r.addr.toNat) / 8 = i := by omega
    have e2 : (a - r.addr.toNat) % 8 = j := by omega
    simp only [e1, e2, hb, hm, if_true, hv]

/-- The write that triggers the fetch of the attach record (R179). -/
theorem marker_covered_iff (r : ControlReq) (page : Nat) :
    (List.range 8).map (fun i => controlCovers r (page + i)) = markerBytes.map some ↔
      ∀ i : Fin 8,
        coversWith r (page + i.val) (([0x52, 0x41, 0x53, 0x4A, 0x45, 0x54, 0x2D, 0x41] : List Byte)[i.val]) := by
  simp only [← controlCovers_iff]
  constructor
  · intro h i
    have := congrArg (fun l => l[i.val]?) h
    have hm : markerBytes = ([0x52, 0x41, 0x53, 0x4A, 0x45, 0x54, 0x2D, 0x41] : List Byte) := by decide
    rw [hm] at this
    fin_cases i <;> simpa using this
  · intro h
    have hm : markerBytes = ([0x52, 0x41, 0x53, 0x4A, 0x45, 0x54, 0x2D, 0x41] : List Byte) := by decide
    rw [hm]
    have h0 := h 0; have h1 := h 1; have h2 := h 2; have h3 := h 3
    have h4 := h 4; have h5 := h 5; have h6 := h 6; have h7 := h 7
    simp [List.range, List.range.loop] at *
    simp_all

/-- A control request whose extents pass is not blocked (R101, R102). -/
theorem State.not_blocked {s : State} {r : ControlReq}
    (h : (s.ring.state = .attached → ∀ x ∈ touchedExtents s.ext.base s.ext.count r.addr r.beats,
      (s.extent x).state ∈ [ExtentState.owned, .shared] ∨ ((s.extent x).state = .free ∧ r.kind = .read))) :
    s.blocked r = false := by
  unfold State.blocked
  by_cases ha : s.ring.state = .attached
  · have h := h ha
    simp only [ha, decide_true, Bool.true_and, List.any_eq_false]
    intro x hx
    rcases h x hx with h | ⟨h, k⟩
    · cases hs : (s.extent x).state <;> simp [hs] at h <;> simp [ExtentState.passes]
    · simp [h, k, ExtentState.passes, isRead]
  · simp [ha]

/-- With nothing held back on the control link nothing is taken. -/
theorem ControlPort.pull_nil (c : ControlPort) (h : c.heldBack = []) : c.pull = c := by
  cases c; simp at h; subst h; simp [ControlPort.pull, pullControl]

/-- The last free place goes to the oldest request held back. -/
theorem ControlPort.pull_one (c : ControlPort) (r rs) (h : c.heldBack = r :: rs) (hl : c.queue.length = 15)
    (hq : controlQueueable r = true) :
    c.pull = { c with queue := c.queue ++ [.request r], heldBack := rs } := by
  cases c with
  | mk q hb an =>
    simp only at h hl; subst h
    have : ∀ an, pullControl (q ++ [ControlItem.request r]) an rs = (q ++ [.request r], an, rs) := by
      intro an
      cases rs with
      | nil => rfl
      | cons a b => simp [pullControl, hl]
    simp [ControlPort.pull, pullControl, hl, hq, this]

/-- With no request waiting the ring request queue stands. -/
theorem Ring.refill_nil (r : Ring) (h : r.waiting = []) : r.refill = r := by
  cases r; simp at h; subst h; rfl

/-- What no grant touches. -/
theorem State.grantTo_frame (s : State) (k : MemTag) (p : Participant) :
    (s.grantTo k p).now = s.now ∧ (s.grantTo k p).sb = s.sb ∧ (s.grantTo k p).params = s.params ∧
      (s.grantTo k p).attachSel = s.attachSel ∧ (s.grantTo k p).drawn = s.drawn ∧
      (s.grantTo k p).pending = s.pending := by
  cases p with
  | slot n =>
    simp only [State.grantTo, State.grantSlot]
    split
    · simp
    · split <;> simp [State.issue]
  | control =>
    simp only [State.grantTo, State.grantControl]
    split
    · simp
    · simp only [State.grantTrailing]; split <;> simp [State.issue]
    · split
      · simp only [State.answerFilled]; split <;> split <;> simp
      · simp [State.grantRequest, State.issue]
  | ring =>
    simp only [State.grantTo, State.grantRing]
    split <;> simp [State.issue]
  | scrub =>
    simp only [State.grantTo, State.grantScrub]
    split <;> simp [State.issue]

/-- An entry issued over a state with the tracker unchanged is a grant of R114. -/
theorem grants_issue (s t0 : State) (k : MemTag) (who inc kind tag addr beats data) (ht : t0.trk = s.trk) :
    grants k s (t0.issue k who inc kind tag addr beats data) who inc kind tag addr beats data := by
  refine ⟨?_, ?_, ?_, ?_, ?_, ?_⟩
  · simp [ht]
  · simp [State.issue, ht]
  · intro j hj; rw [State.issue_entry_of_ne _ _ _ _ _ _ _ _ _ _ hj]; simp [State.entry, ht]
  all_goals simp [State.issue, ht]

/-! ### The ownership mirror -/

/-- A mirror change touches the mirror and ATTN alone. -/
theorem Ring.setMirror_eq (r : Ring) (i : Nat) (m : Mirror) :
    r.setMirror i m = { r with mirror := (r.setMirror i m).mirror, attn := (r.setMirror i m).attn } := by
  unfold Ring.setMirror; split <;> rfl

/-- The mirror at an index within it. -/
theorem Ring.mirrorAt_fin (r : Ring) (i : Fin 256) : r.mirrorAt i.val = r.mirror.get i := by simp [Ring.mirrorAt]

/-- One response entry handed back where the write covers its owner byte with EMPTY (R179). -/
def handBackOne (w : ControlReq) (r : Ring) (i : Nat) : Ring :=
    if controlCovers w (ownerAddress r.respBase i) = some 0 ∧ r.mirrorAt i = .full then r.setMirror i .empty else r

/-- It touches the mirror and ATTN alone. -/
theorem handBackOne_eq (w r i) :
    handBackOne w r i = { r with mirror := (handBackOne w r i).mirror, attn := (handBackOne w r i).attn } := by
  unfold handBackOne; split
  · exact Ring.setMirror_eq _ _ _
  · rfl

/-- So do several. -/
theorem foldl_handBackOne_eq (w : ControlReq) (l : List Nat) (r : Ring) :
    l.foldl (handBackOne w) r =
      { r with mirror := (l.foldl (handBackOne w) r).mirror, attn := (l.foldl (handBackOne w) r).attn } := by
  induction l generalizing r with
  | nil => rfl
  | cons i l ih =>
    simp only [List.foldl_cons]
    have h := handBackOne_eq w r i
    generalize handBackOne w r i = q at h ⊢
    refine (ih q).trans ?_
    generalize (l.foldl (handBackOne w) q).mirror = a
    generalize (l.foldl (handBackOne w) q).attn = b
    rw [h]

/-- It keeps the base of the response ring. -/
theorem handBackOne_respBase (w r i) : (handBackOne w r i).respBase = r.respBase := by rw [handBackOne_eq]

/-- What it makes of each entry. -/
theorem handBackOne_get (w : ControlReq) (r : Ring) (i : Nat) (j : Fin 256) :
    (handBackOne w r i).mirror.get j =
      if i = j.val ∧ controlCovers w (ownerAddress r.respBase j.val) = some 0 ∧ r.mirror.get j = .full then .empty
      else r.mirror.get j := by
  unfold handBackOne
  by_cases hij : i = j.val
  · subst hij
    simp only [Ring.mirrorAt_fin, true_and]
    split
    · simp [Ring.setMirror, Vector.get_eq_getElem]
    · rfl
  · simp only [hij, false_and, if_false]
    split
    · unfold Ring.setMirror; split
      · simp [Vector.get_eq_getElem, hij]
      · rfl
    · rfl

/-- What several make of each entry. -/
theorem foldl_handBackOne_get (w : ControlReq) (l : List Nat) (r : Ring) (j : Fin 256) :
    (l.foldl (handBackOne w) r).mirror.get j =
      if j.val ∈ l ∧ controlCovers w (ownerAddress r.respBase j.val) = some 0 ∧ r.mirror.get j = .full then .empty
      else r.mirror.get j := by
  induction l generalizing r with
  | nil => simp
  | cons i l ih =>
    simp only [List.foldl_cons]
    rw [ih, handBackOne_respBase, handBackOne_get]
    by_cases hij : i = j.val <;> by_cases hc : controlCovers w (ownerAddress r.respBase j.val) = some 0 <;>
      by_cases hf : r.mirror.get j = .full <;> by_cases hl : j.val ∈ l
    all_goals simp [hij, hc, hf, hl]
    all_goals (intro h; exact absurd h.symm hij)

/-- It keeps ATTN equal to the mirror's holding a FULL entry (R187). -/
theorem handBackOne_attn (w : ControlReq) (r : Ring) (i : Nat) (h : r.attn = r.anyFull) :
    (handBackOne w r i).attn = (handBackOne w r i).anyFull := by
  unfold handBackOne; split
  · unfold Ring.setMirror; split
    · rfl
    · exact h
  · exact h

/-- So do several. -/
theorem foldl_handBackOne_attn (w : ControlReq) (l : List Nat) (r : Ring) (h : r.attn = r.anyFull) :
    (l.foldl (handBackOne w) r).attn = (l.foldl (handBackOne w) r).anyFull := by
  induction l generalizing r with
  | nil => exact h
  | cons i l ih => exact ih _ (handBackOne_attn w r i h)

/-- The hand-back outside DETACHED, entry by entry. -/
theorem Ring.handBack_eq (r : Ring) (w : ControlReq) (h : r.state ≠ .detached) :
    r.handBack w = (List.range (min r.respSize 256)).foldl (handBackOne w) r := by
  unfold Ring.handBack; rw [if_neg h]; rfl

/-- The end of a response write (R186, R191). -/
theorem Ring.responseDone_eq (r : Ring) (i : Fin 256) (last : Bool) :
    r.responseDone i.val last = r.responseEnded i last := by
  have hm : r.mirrorAt i.val = r.mirror.get i := by simp [Ring.mirrorAt]
  have hs : (r.setMirror i.val .full) = { r with mirror := r.mirror.set i.val .full i.isLt, attn := true } := by
    simp only [Ring.setMirror, i.isLt, dif_pos]
    congr 1
    simp only [List.any_eq_true]
    refine ⟨.full, ?_, rfl⟩
    rw [Vector.mem_toList_iff]
    exact Vector.mem_set _
  by_cases hw : r.mirror.get i = .writing
  · simp only [Ring.responseDone, Ring.responseEnded, hm, hs, hw, if_true, Ring.endDraining]
  · simp only [Ring.responseDone, Ring.responseEnded, hm, hw, if_false, Ring.endDraining]

/-! ### Completions -/

/-- A slot change that shows nothing new touches the slot alone. -/
theorem State.modSlot_eq_withSlot (s : State) (n : SlotId) (f : Slot → Slot)
    (h : (f (s.slot n)).shown = (s.slot n).shown) :
    s.modSlot n f = s.withSlot n (f (s.slot n)) := by
  simp [State.modSlot, State.withSlot, h]

@[simp] theorem State.withSlot_slot_self (s : State) (n : SlotId) (sl : Slot) : (s.withSlot n sl).slot n = sl := by
  simp [State.withSlot, State.slot, Vector.get_eq_getElem]

@[simp] theorem State.withSlot_withSlot (s : State) (n : SlotId) (a b : Slot) :
    (s.withSlot n a).withSlot n b = s.withSlot n b := by
  simp [State.withSlot]

@[simp] theorem State.withSlot_self (s : State) (n : SlotId) : s.withSlot n (s.slot n) = s := by
  simp [State.withSlot, State.slot, Vector.get_eq_getElem]

/-- The states whose blade can receive (R117). -/
theorem Slot.canReceive_iff (sl : Slot) :
    sl.canReceive = true ↔
      (sl.state ∈ [SlotState.settling, .live, .holding, .held] ∨ (sl.state = .retiring ∧ sl.linkEn = true)) := by
  cases h : sl.state <;> simp [Slot.canReceive, SlotState.traffic, h]

/-- A completion that finds ISSUED. -/
theorem State.complete_issued (s : State) (k : MemTag) (ok data) (h : (s.entry k).state = .issued) :
    s.complete k ok data = (s.heard k).completeIssued k (s.entry k) ok data := by
  simp only [State.complete, h]; rfl

/-- A fetched ring entry becomes the held record if it qualifies (R183). -/
theorem State.fetched_ringEntry (s : State) (k : MemTag) (idx data) :
    (s.completed k).fetched (.ringEntry idx) data =
      if s.ring.state = .attached ∧ idx = s.ring.consumer ∧ ownerByte data = 1 ∧ s.ring.held = none then
        { s.completed k with ring := { s.ring with held := some (Request.parse data) } }
      else s.completed k := by
  simp only [State.fetched, Ring.fetched]
  rw [show (s.completed k).ring = s.ring from rfl]
  split <;> rfl

/-! ### The attach -/

/-- The number of the first test that is true. -/
def firstTrue : List (Nat × Bool) → Option Nat
  | [] => none
  | (n, b) :: r => if b = true then some n else firstTrue r

/-- A check holds exactly when the test of the same number is false. -/
def sameTest (c : Nat × Prop) (d : Nat × Bool) : Prop := c.1 = d.1 ∧ (c.2 ↔ d.2 = false)

/-- Checks that all hold answer none. -/
theorem firstTrue_none {cs ds} (h : List.Forall₂ sameTest cs ds) (hp : ∀ c ∈ cs, c.2) : firstTrue ds = none := by
  induction h with
  | nil => rfl
  | @cons c d cs ds hcd _ ih =>
    have h1 : d.2 = false := hcd.2.mp (hp c (by simp))
    obtain ⟨n, b⟩ := d
    simp only at h1
    simp only [firstTrue, h1, Bool.false_eq_true, if_false]
    exact ih fun c hc => hp c (by simp [hc])

/-- The first check to fail is the number answered. -/
theorem firstTrue_some {cs ds} (h : List.Forall₂ sameTest cs ds) {f} (hp : firstFails cs f) :
    firstTrue ds = some f := by
  induction h with
  | nil => obtain ⟨pre, P, post, e, _, _⟩ := hp; simp at e
  | @cons c d cs ds hcd _ ih =>
    obtain ⟨n, b⟩ := d
    obtain ⟨pre, P, post, e, h1, h2⟩ := hp
    cases pre with
    | nil =>
      simp at e
      obtain ⟨rfl, rfl⟩ := e
      have : b = true := by
        have := hcd.2
        simp at this
        cases b
        · exact absurd (this.mpr rfl) h2
        · rfl
      have e1 := hcd.1
      simp at e1
      simp [firstTrue, this, e1]
    | cons c' pre =>
      simp at e
      obtain ⟨rfl, rfl⟩ := e
      have h3 : b = false := hcd.2.mp (h1 c (by simp))
      simp only [firstTrue, h3, Bool.false_eq_true, if_false]
      exact ih ⟨pre, P, post, rfl, fun c hc => h1 c (by simp [hc]), h2⟩

/-- The tests of an attach record in their order. -/
def AttachRecord.tests (r : AttachRecord) (page : Nat) : List (Nat × Bool) :=
  let reqLen := r.reqSize * 32
  let respLen := r.respSize * 32
  let region := r.extentCount * 65536
  [(2, !ringSizeOk r.reqSize), (1, r.reqBase % reqLen ≠ 0 || overlaps r.reqBase reqLen page 4096),
    (4, !ringSizeOk r.respSize), (3, r.respBase % respLen ≠ 0 || overlaps r.respBase respLen page 4096 ||
      overlaps r.respBase respLen r.reqBase reqLen),
    (5, r.statusBase % 4096 ≠ 0 || overlaps r.statusBase 1024 page 4096 ||
      overlaps r.statusBase 1024 r.reqBase reqLen || overlaps r.statusBase 1024 r.respBase respLen),
    (6, r.managedBase % 65536 ≠ 0), (7, r.extentCount = 0 || r.extentCount > 2048),
    (6, overlaps r.managedBase region page 4096 || overlaps r.managedBase region r.reqBase reqLen ||
      overlaps r.managedBase region r.respBase respLen || overlaps r.managedBase region r.statusBase 1024),
    (7, r.managedBase + region > 2 ^ 40), (10, r.debounce = 0), (11, r.powerLimit = 0), (12, r.sidebandTimeout = 0),
    (13, r.probeLimit = 0), (14, r.glitchLimit = 0), (17, r.holdLimit = 0 || r.holdLimit > 4095),
    (18, r.drainLimit = 0 || r.drainLimit > 4095), (19, r.completionTimeout = 0)]

/-- The field that fails is that of the first test that is true. -/
theorem AttachRecord.failing_eq (r page) : AttachRecord.failing r page = firstTrue (AttachRecord.tests r page) := by
  simp only [AttachRecord.failing, AttachRecord.tests, firstTrue, decide_eq_true_eq]

/-- The checks agree with the tests (R181, log 24). -/
theorem AttachRecord.checks_tests (r : AttachRecord) (page : Nat) :
    List.Forall₂ sameTest (r.checks page) (AttachRecord.tests r page) := by
  unfold AttachRecord.checks AttachRecord.tests
  simp only
  repeat' (first | exact List.Forall₂.nil | refine List.Forall₂.cons ⟨rfl, ?_⟩ ?_)
  all_goals simp [ringSizeOk, and_assoc]
  all_goals omega

/-- The tracker reports an attach BUSY for the entries of R128, the trailing fetch's own freed. -/
theorem State.attachBusy_iff (s : State) (k : MemTag) (a : AttachRecord) :
    (s.completed k).attachBusy a = true ↔ ∃ j, j ≠ k ∧ (s.entry j).busyFor a := by
  have kb : ∀ e : Entry, e.keepsBusy a.managedBase (a.extentCount * 65536) = true ↔ e.busyFor a := by
    intro e
    unfold Entry.keepsBusy Entry.busyFor
    cases e.who <;> cases e.tag <;> cases e.kind <;> simp
  simp only [State.attachBusy, List.any_eq_true, kb]
  have hent : ∀ j, (s.completed k).entry j = if j = k then Entry.free else s.entry j := by
    intro j; split
    · rename_i h; subst h; simp [State.completed]
    · rename_i h; simp only [State.completed, State.freeEntry_entry_of_ne _ _ _ h]; rfl
  constructor
  · rintro ⟨e, he, hb⟩
    rw [Vector.mem_toList_iff, Vector.mem_iff_getElem] at he
    obtain ⟨i, hi, rfl⟩ := he
    have := hent ⟨i, hi⟩
    have e2 : (s.completed k).trk.entries[i] = (s.completed k).entry ⟨i, hi⟩ := rfl
    rw [e2, this] at hb
    by_cases h : (⟨i, hi⟩ : MemTag) = k
    · rw [if_pos h] at hb; exact absurd rfl hb.1
    · rw [if_neg h] at hb; exact ⟨_, h, hb⟩
  · rintro ⟨j, hj, hb⟩
    refine ⟨(s.completed k).entry j, ?_, by rw [hent, if_neg hj]; exact hb⟩
    rw [Vector.mem_toList_iff]
    exact Vector.getElem_mem _

/-- A slot at an attach (R8). -/
theorem Slot.atAttach_eq (sl : Slot) (now : Nat) (a : AttachRecord) :
    sl.atAttach now a.debounce = sl.seatedAtAttach now a := by
  simp only [Slot.atAttach, Slot.seatedAtAttach, Slot.toSeating]

/-- The Ring Interface at an OK result (R182). -/
theorem Ring.attach_eq (r : Ring) (a : AttachRecord) (h1 : r.queue.length ≤ 14) (h2 : r.waiting = [])
    (h3 : r.pend = []) (h4 : r.reserved = 0) :
    r.attach a = r.attachedWith a := by
  have e1 : r.queue.length < 16 := by omega
  simp [Ring.attach, Ring.enqueue, e1, h2, Ring.postEvent, h3, h4, Ring.attachedWith]
  omega

theorem insertUnit_header_allUnits : insertUnit .header allUnits = allUnits := rfl

theorem insertUnit_map_allUnits (j) : insertUnit (.extentMap j) allUnits = allUnits := by revert j; decide +kernel

/-- Every unit is stale already after an attach. -/
theorem Ring.markStale_header_attachedWith (r : Ring) (a : AttachRecord) :
    (r.attachedWith a).markStale .header = r.attachedWith a := by
  unfold Ring.markStale
  split
  · have : insertUnit .header (r.attachedWith a).stale = (r.attachedWith a).stale := insertUnit_header_allUnits
    rw [this]
  · rfl

theorem Ring.markStale_map_attachedWith (r : Ring) (a : AttachRecord) (j) :
    (r.attachedWith a).markStale (.extentMap j) = r.attachedWith a := by
  unfold Ring.markStale
  split
  · have : insertUnit (.extentMap j) (r.attachedWith a).stale = (r.attachedWith a).stale := insertUnit_map_allUnits j
    rw [this]
  · rfl

/-- With an empty scrub queue nothing is taken. -/
theorem State.scrubTake_nil (s : State) (h : s.ext.queue = []) : s.scrubTake = s := by
  simp only [State.scrubTake, h]

end Sys2Proof.Machine
end

