-- ==== Sys2Proof/Laws/Records.lean ====
section
/-! SUPPORT. The records that the part writes: their bytes from their fields, and the extent map's bits (R104, R193). -/

namespace Sys2Proof.Machine

/-- A byte of a record is a byte. -/
theorem fieldByte_lt (fs : Fields) (i : Nat) : fieldByte fs i < 256 := by
  induction fs with
  | nil => simp [fieldByte]
  | cons f fs ih =>
    unfold fieldByte; split
    · exact Nat.mod_lt _ (by decide)
    · exact ih

/-- Byte `i` of a beat of a record is the record's byte there (R193). -/
theorem fieldBeat_byte (fs : Fields) (k : Nat) (i : Fin 8) :
    (fieldBeat fs k).extractLsb' (8 * i.val) 8 = BitVec.ofNat 8 (fieldByte fs (8 * k + i.val)) := by
  apply BitVec.eq_of_toNat_eq
  have h := fun j => fieldByte_lt fs (8 * k + j)
  have h0 := h 0; have h1 := h 1; have h2 := h 2; have h3 := h 3
  have h4 := h 4; have h5 := h 5; have h6 := h 6; have h7 := h 7
  simp only [fieldBeat, BitVec.extractLsb'_toNat, BitVec.toNat_ofNat, Nat.shiftRight_eq_div_pow, List.range,
    List.range.loop, List.foldr]
  fin_cases i <;> simp only [Nat.mul_zero, Nat.mul_one] <;> omega

/-- The beats of a record carry its bytes in their order (R193). -/
theorem beatBytes_writeBeats (fs : Fields) (n : Nat) :
    beatBytes (writeBeats fs n) = (List.range (8 * n)).map fun i => BitVec.ofNat 8 (fieldByte fs i) := by
  unfold beatBytes writeBeats
  induction n with
  | zero => rfl
  | succ n ih =>
    rw [List.range_succ (n := n), List.map_append, List.flatMap_append, ih, Nat.mul_succ, List.range_add, List.map_append]
    congr 1
    simp only [List.map_cons, List.map_nil, List.flatMap_cons, List.flatMap_nil, List.append_nil, List.map_map]
    refine List.map_congr_left fun i hi => ?_
    exact fieldBeat_byte fs n ⟨i, List.mem_range.1 hi⟩

/-- A record is written byte by byte (R193). -/
theorem writesBytes_writeBeats {fs : Fields} {n : Nat} {bytes : List Byte}
    (h : (List.range (8 * n)).map (fun i => BitVec.ofNat 8 (fieldByte fs i)) = bytes) :
    writesBytes (writeBeats fs n) bytes := by
  refine ⟨(beatBytes_writeBeats fs n).trans h, fun b hb => ?_⟩
  simp only [writeBeats, List.mem_map] at hb
  obtain ⟨k, -, rfl⟩ := hb
  rfl

/-- Digit `j` of a number built digit by digit in base 4. -/
theorem foldr_digit {α : Type} (f : α → Nat) (hf : ∀ a, f a < 4) (l : List α) (j : Nat) :
    l.foldr (fun a acc => f a + 4 * acc) 0 / 4 ^ j % 4 = (l[j]?.map f).getD 0 := by
  induction l generalizing j with
  | nil => simp
  | cons a l ih =>
    have := hf a
    cases j with
    | zero => simp; omega
    | succ j =>
      rw [List.foldr_cons, Nat.pow_succ, Nat.mul_comm (4 ^ j), ← Nat.div_div_eq_div_mul,
        show (f a + 4 * l.foldr (fun a acc => f a + 4 * acc) 0) / 4 = l.foldr (fun a acc => f a + 4 * acc) 0 by omega,
        ih]
      simp

/-- The same for the bits of a beat. -/
theorem foldr_bits {α : Type} (f : α → Nat) (hf : ∀ a, f a < 4) (l : List α) (j : Fin 32) :
    (BitVec.ofNat 64 (l.foldr (fun a acc => f a + 4 * acc) 0)).extractLsb' (2 * j.val) 2 =
      BitVec.ofNat 2 ((l[j.val]?.map f).getD 0) := by
  apply BitVec.eq_of_toNat_eq
  rw [← foldr_digit f hf l j.val]
  simp only [BitVec.extractLsb'_toNat, BitVec.toNat_ofNat, Nat.shiftRight_eq_div_pow]
  generalize l.foldr (fun a acc => f a + 4 * acc) 0 = v
  have e : (2 : Nat) ^ (2 * j.val) = 4 ^ j.val := by rw [Nat.pow_mul]
  have h64 : (2 : Nat) ^ 64 = 4 ^ j.val * (4 * 4 ^ (31 - j.val)) := by
    rw [← Nat.pow_succ', ← Nat.pow_add, show j.val + (31 - j.val).succ = 32 by omega]; rfl
  rw [e, h64, Nat.mod_mul_right_div_self, Nat.mod_mul_right_mod]
  omega

/-- The extents of a beat of the extent map, by number. -/
theorem State.mapBeat_get (s : State) (k : Fin 64) (j : Fin 32) :
    (((s.ext.live.drop (32 * k.val)).take 32)[j.val]?) =
      if 32 * k.val + j.val < s.ext.count then some (s.extent (32 * k.val + j.val)) else none := by
  have hx : 32 * k.val + j.val < 2048 := by omega
  rw [List.getElem?_take_of_lt j.isLt, List.getElem?_drop, ExtentTable.live]
  split
  · rename_i h
    rw [List.getElem?_take_of_lt h, List.getElem?_eq_getElem (by simpa using hx)]
    simp [State.extent, hx, Vector.get_eq_getElem]
  · rename_i h
    exact List.getElem?_eq_none (by simp; omega)

/-- The extent map's two bits of an extent (R104). -/
theorem State.extentMap_bits (s : State) (k : Fin 64) (j : Fin 32) :
    (BitVec.ofNat 64 (extentMapValue s.ext k.val)).extractLsb' (2 * j.val) 2 =
      if 32 * k.val + j.val < s.ext.count then BitVec.ofNat 2 (s.extent (32 * k.val + j.val)).state.mapCode else 0 := by
  unfold extentMapValue
  rw [foldr_bits (fun e : Extent => e.state.mapCode) (fun e => by cases e.state <;> decide)]
  rw [s.mapBeat_get]
  split <;> rfl

/-- The extents below the extent count in a class of the header, counted by number (R104). -/
theorem State.countOf_eq (s : State) (h : s.ext.count ≤ 2048) (cls : Nat) :
    s.ext.countOf cls = (List.range s.ext.count).countP fun x => (s.extent x).state.countClass == cls := by
  have e : s.ext.live = (List.range s.ext.count).map s.extent := by
    apply List.ext_getElem
    · simp [ExtentTable.live, h]
    · intro i h1 h2
      have : i < 2048 := by simp [ExtentTable.live] at h1; omega
      simp [ExtentTable.live, State.extent, this, Vector.get_eq_getElem]
  rw [ExtentTable.countOf, e, List.countP_map]
  rfl

end Sys2Proof.Machine
end

