-- ==== Sys2Proof/Laws/Owed.lean ====
section
/-! SUPPORT. No shared operation loses a write that the status block is owed (R104, R189): for each, the units that were
stale or had a write waiting are so afterwards, and so is every unit of which a value that it shows changes. -/

namespace Sys2Proof.Machine

open Sys2Proof

/-- While the part is attached, the change from `s` to `t` keeps it attached and loses no unit of the status block. -/
def owedKept (s t : State) : Prop := s.ring.state = .attached → t.ring.state = .attached ∧ keepsOwed s t

theorem owedKept_refl (s : State) : owedKept s s := fun h => ⟨h, fun _ hu => hu.resolve_right fun h => h rfl⟩

theorem owedKept.trans {s t w : State} (h : owedKept s t) (k : owedKept t w) : owedKept s w := by
  intro ha
  obtain ⟨h1, h2⟩ := h ha
  obtain ⟨k1, k2⟩ := k h1
  refine ⟨k1, fun u hu => ?_⟩
  rcases hu with hu | hu
  · exact k2 u (.inl (h2 u (.inl hu)))
  · by_cases he : t.unitShows u = s.unitShows u
    · exact k2 u (.inr fun e => hu (e.trans he))
    · exact k2 u (.inl (h2 u (.inr he)))

theorem State.unitShows_congr {s t : State} (hs : t.slots = s.slots) (he : t.ext = s.ext) (hr : t.ring.state = s.ring.state)
    (hl : t.ring.lost = s.ring.lost) (u : StatusUnit) : t.unitShows u = s.unitShows u := by
  cases u <;> simp [State.unitShows, headerFields, State.slot, hs, he, hr, hl]

/-- A change that no unit shows, and that leaves every unit owed that was, keeps what is owed. -/
theorem owedKept_of {s t : State} (hs : t.slots = s.slots) (he : t.ext = s.ext) (hr : t.ring.state = s.ring.state)
    (hl : t.ring.lost = s.ring.lost) (ho : ∀ u, s.owes u → t.owes u) : owedKept s t := fun ha =>
  ⟨hr.trans ha, fun u hu => hu.elim (ho u) fun h => absurd (State.unitShows_congr hs he hr hl u) h⟩

/-- The same where the stale set and the ring request queue stand. -/
theorem owedKept_quiet {s t : State} (hs : t.slots = s.slots) (he : t.ext = s.ext) (hr : t.ring.state = s.ring.state)
    (hl : t.ring.lost = s.ring.lost) (h1 : t.ring.stale = s.ring.stale) (h2 : t.ring.queue = s.ring.queue) :
    owedKept s t := owedKept_of hs he hr hl fun u hu => by rwa [State.owes, h1, h2]

theorem mem_insertUnit (u v : StatusUnit) (l : List StatusUnit) : v ∈ insertUnit u l ↔ v = u ∨ v ∈ l := by
  induction l with
  | nil => simp [insertUnit]
  | cons w l ih =>
    unfold insertUnit
    split
    · rename_i h; subst h; simp
    · split
      · simp
      · simp [ih]; tauto

/-- A unit marked stale while the part is attached is owed. -/
theorem Ring.markStale_owes (r : Ring) (u : StatusUnit) (h : r.state = .attached) :
    u ∈ (r.markStale u).stale ∨ RingOp.status u ∈ (r.markStale u).queue := by
  unfold Ring.markStale
  by_cases hq : r.queue.any (RingOp.writes u) = false
  · rw [if_pos ⟨h, hq⟩]; exact .inl (by simp [mem_insertUnit])
  · rw [if_neg (fun k => hq k.2)]
    rw [Bool.not_eq_false, List.any_eq_true] at hq
    obtain ⟨op, ho, hw⟩ := hq
    cases op <;> simp [RingOp.writes] at hw
    subst hw; exact .inr ho

theorem Ring.markStale_keeps (r : Ring) (u v : StatusUnit) (h : v ∈ r.stale ∨ RingOp.status v ∈ r.queue) :
    v ∈ (r.markStale u).stale ∨ RingOp.status v ∈ (r.markStale u).queue := by
  unfold Ring.markStale
  split
  · rcases h with h | h
    · exact .inl (by simp [mem_insertUnit, h])
    · exact .inr h
  · exact h

/-- A change of which every unit that shows it is marked stale keeps what is owed. -/
theorem owedKept_marked {s t : State} (h : s.ring.state = .attached → t.ring.state = .attached)
    (ho : s.ring.state = .attached → ∀ u, s.owes u → t.owes u)
    (hu : s.ring.state = .attached → ∀ u, t.unitShows u ≠ s.unitShows u → t.owes u) : owedKept s t := fun ha =>
  ⟨h ha, fun u k => k.elim (ho ha u) (hu ha u)⟩

theorem Slot.statusFields_of_shown {a b : Slot} (h : a.shown = b.shown) : a.statusFields = b.statusFields := by
  simp only [Slot.shown, SlotShown.mk.injEq] at h
  obtain ⟨h1, h2, h3, h4, h5, h6, h7, h8, h9⟩ := h
  simp [Slot.statusFields, *]

theorem State.modSlot_owed (s : State) (n : SlotId) (f : Slot → Slot) : owedKept s (s.modSlot n f) := by
  have hr : (s.modSlot n f).ring = if (f (s.slot n)).shown = (s.slot n).shown then s.ring else s.ring.markStale (.slot n) := rfl
  refine owedKept_marked ?_ ?_ ?_
  · intro h; rw [hr]; split
    · exact h
    · rw [Ring.markStale_state]; exact h
  · intro _ u hu; unfold State.owes; rw [hr]; split
    · exact hu
    · exact Ring.markStale_keeps _ _ _ hu
  · intro h u hu
    cases u with
    | header =>
      refine absurd ?_ hu
      simp only [State.unitShows, headerFields, State.modSlot_ext, hr]; split <;> simp [Ring.markStale_state]
    | extentMap k => exact absurd (by simp [State.unitShows]) hu
    | slot m =>
      by_cases hm : m = n
      · subst hm
        unfold State.owes; rw [hr]
        split
        · rename_i hs
          refine absurd ?_ hu
          simp only [State.unitShows, State.modSlot_slot_self]
          exact Slot.statusFields_of_shown hs
        · exact Ring.markStale_owes _ _ h
      · refine absurd ?_ hu
        simp [State.unitShows, State.modSlot_slot_of_ne _ _ _ _ hm]

theorem State.postEvent_owed (s : State) (e : Event) : owedKept s (s.postEvent e) := by
  by_cases h : s.ring.state = .attached
  · by_cases hp : s.ring.pend.length + s.ring.reserved < 32
    · refine owedKept_quiet rfl rfl ?_ ?_ ?_ ?_ <;> simp [State.postEvent, Ring.postEvent, h, hp]
    · have hr : (s.postEvent e).ring = ({ s.ring with lost := satInc32 s.ring.lost } : Ring).markStale .header := by
        simp [State.postEvent, Ring.postEvent, h, hp]
      refine owedKept_marked ?_ ?_ ?_
      · intro h; rw [hr, Ring.markStale_state]; exact h
      · intro _ u hu; unfold State.owes; rw [hr]; exact Ring.markStale_keeps _ _ _ hu
      · intro h u hu
        cases u with
        | header => unfold State.owes; rw [hr]; exact Ring.markStale_owes _ _ h
        | extentMap k => exact absurd (by simp [State.unitShows]) hu
        | slot m => exact absurd (by simp [State.unitShows]) hu
  · intro ha; exact absurd ha h

theorem State.respond_owed (s : State) (a : Response) : owedKept s (s.respond a) := owedKept_quiet rfl rfl rfl rfl rfl rfl
theorem State.finish_owed (s : State) (a : Response) : owedKept s (s.finish a) := owedKept_quiet rfl rfl rfl rfl rfl rfl

/-! ## Extents -/

theorem State.extent_setExtent (s : State) (x : Nat) (e : Extent) (h : x < 2048) (y : Nat) :
    (s.setExtent x e).extent y = if y = x then e else s.extent y := by
  split
  · rename_i hy; subst hy; exact State.setExtent_extent_self _ _ _ h
  · rename_i hy; exact State.setExtent_extent_of_ne _ _ _ _ hy

theorem countP_toList_set {α : Type} (v : Vector α 2048) (p : α → Bool) (x : Nat) (h : x < 2048) (e : α) (k : Nat)
    (he : p e = p (v.get ⟨x, h⟩)) : ((v.set x e h).toList.take k).countP p = (v.toList.take k).countP p := by
  have hm : (v.set x e h).toList.map p = v.toList.map p := by
    apply List.ext_getElem
    · simp
    · intro i h1 h2
      simp only [List.getElem_map, Vector.getElem_toList, Vector.getElem_set]
      split
      · rename_i hx; subst hx; simpa [Vector.get_eq_getElem] using he
      · rfl
  have hc : ∀ l : List α, l.countP p = (l.map p).countP id := fun l => by rw [List.countP_map]; rfl
  rw [hc, hc, List.map_take, List.map_take, hm]

theorem mapValue_set (t : ExtentTable) (x : Nat) (h : x < 2048) (e : Extent) (k : Nat)
    (he : e.state.mapCode = (t.records.get ⟨x, h⟩).state.mapCode ∨ x / 32 ≠ k) :
    extentMapValue { t with records := t.records.set x e h } k = extentMapValue t k := by
  have hf : ∀ l : List Extent, l.foldr (fun (e : Extent) acc => e.state.mapCode + 4 * acc) 0 =
      (l.map fun e => e.state.mapCode).foldr (fun d acc => d + 4 * acc) 0 := fun l => by rw [List.foldr_map]
  unfold extentMapValue
  rw [hf, hf]
  congr 1
  apply List.ext_getElem
  · simp [ExtentTable.live]
  · intro i h1 h2
    simp only [List.getElem_map, List.getElem_take, List.getElem_drop, ExtentTable.live, Vector.getElem_toList, Vector.getElem_set]
    have hi : i < 32 := by simp at h1; omega
    split
    · rename_i hx
      rcases he with he | he
      · subst hx; simpa [Vector.get_eq_getElem] using he
      · omega
    · rfl

theorem State.setExtent_owed (s : State) (x : Nat) (e : Extent) : owedKept s (s.setExtent x e) := by
  by_cases hx : x < 2048
  · let old := (s.ext.records.get ⟨x, hx⟩).state
    let r := if e.state.countClass = old.countClass then s.ring else s.ring.markStale .header
    let r2 := if e.state.mapCode = old.mapCode then r else r.markStale (.extentMap ⟨x / 32, by omega⟩)
    have e0 : s.setExtent x e = { s with ext := { s.ext with records := s.ext.records.set x e hx }, ring := r2 } := by
      simp only [State.setExtent, dif_pos hx]; rfl
    have hrs : r.state = s.ring.state := by simp only [r]; split <;> simp [Ring.markStale_state]
    have hrl : r.lost = s.ring.lost := by simp only [r]; split <;> simp
    have hr2s : r2.state = s.ring.state := by simp only [r2]; split <;> simp [Ring.markStale_state, hrs]
    have hr2l : r2.lost = s.ring.lost := by simp only [r2]; split <;> simp [hrl]
    have k1 : ∀ u, (u ∈ s.ring.stale ∨ RingOp.status u ∈ s.ring.queue) → (u ∈ r.stale ∨ RingOp.status u ∈ r.queue) := by
      intro u hu; simp only [r]; split
      · exact hu
      · exact Ring.markStale_keeps _ _ _ hu
    have k2 : ∀ u, (u ∈ r.stale ∨ RingOp.status u ∈ r.queue) → (u ∈ r2.stale ∨ RingOp.status u ∈ r2.queue) := by
      intro u hu; simp only [r2]; split
      · exact hu
      · exact Ring.markStale_keeps _ _ _ hu
    rw [e0]
    refine owedKept_marked (fun h => hr2s.trans h) (fun _ u hu => k2 u (k1 u hu)) ?_
    intro h u hu
    cases u with
    | slot m => exact absurd rfl hu
    | header =>
      by_cases hc : e.state.countClass = old.countClass
      · refine absurd ?_ hu
        have : ∀ c, ({ s.ext with records := s.ext.records.set x e hx } : ExtentTable).countOf c = s.ext.countOf c := by
          intro c
          refine countP_toList_set _ (fun e : Extent => e.state.countClass == c) _ hx _ _ ?_
          simp only [hc, old]
        simp [State.unitShows, headerFields, this, hr2s, hr2l]
      · refine k2 _ ?_
        simp only [r, if_neg hc]
        exact Ring.markStale_owes _ _ h
    | extentMap k =>
      by_cases hc : e.state.mapCode = old.mapCode ∨ x / 32 ≠ k.val
      · refine absurd ?_ hu
        simp only [State.unitShows]
        rw [mapValue_set s.ext x hx e k.val hc]
      · rw [not_or, Decidable.not_not] at hc
        have hk : (⟨x / 32, by omega⟩ : Fin 64) = k := Fin.ext hc.2
        show _ ∈ r2.stale ∨ _ ∈ r2.queue
        simp only [r2, if_neg hc.1, hk]
        exact Ring.markStale_owes _ _ (hrs.trans h)
  · have : s.setExtent x e = s := by simp [State.setExtent, hx]
    rw [this]; exact owedKept_refl s

/-- A change of the Extent Table's header values alone, with the header marked. -/
theorem owedKept_header {s t : State} (hs : t.slots = s.slots) (hr : t.ring = s.ring.markStale .header)
    (hm : ∀ k, extentMapValue t.ext k = extentMapValue s.ext k) : owedKept s t := by
  refine owedKept_marked ?_ ?_ ?_
  · intro h; rw [hr, Ring.markStale_state]; exact h
  · intro _ u hu; unfold State.owes; rw [hr]; exact Ring.markStale_keeps _ _ _ hu
  · intro h u hu
    cases u with
    | header => unfold State.owes; rw [hr]; exact Ring.markStale_owes _ _ h
    | slot m => exact absurd (by simp [State.unitShows, State.slot, hs]) hu
    | extentMap k => exact absurd (by simp [State.unitShows, hm]) hu

theorem State.joinScrub_owed (s : State) (x : Nat) : owedKept s (s.joinScrub x) := owedKept_header rfl rfl fun _ => rfl
theorem State.makeDirty_owed (s : State) (x : Nat) : owedKept s (s.makeDirty x) :=
  owedKept.trans (s.setExtent_owed x _) (State.joinScrub_owed _ x)

theorem State.releaseExtent_owed (s : State) (n : SlotId) (x : Nat) : owedKept s (s.releaseExtent n x) := by
  unfold State.releaseExtent
  simp only
  split
  · split
    · exact s.makeDirty_owed x
    · exact owedKept_refl s
  · split
    · exact s.makeDirty_owed x
    · exact s.setExtent_owed x _
  all_goals exact owedKept_refl s

/-- A fold of changes each of which keeps what is owed keeps it. -/
theorem owedKept_foldl {α : Type} (f : State → α → State) (hf : ∀ s a, owedKept s (f s a)) (l : List α) (s : State) :
    owedKept s (l.foldl f s) := by
  induction l generalizing s with
  | nil => exact owedKept_refl s
  | cons a l ih => exact owedKept.trans (hf s a) (ih _)

theorem State.releaseExtents_owed (s : State) (n : SlotId) (xs : List Nat) : owedKept s (s.releaseExtents n xs) :=
  owedKept_foldl _ (fun s x => s.releaseExtent_owed n x) xs s

theorem State.releaseMap_owed (s : State) (n : SlotId) : owedKept s (s.releaseMap n) :=
  owedKept.trans (s.releaseExtents_owed n _) (State.modSlot_owed _ n _)

/-! ## Jobs and entries -/

theorem State.withSb_owed (s : State) (sb : Sideband) : owedKept s { s with sb := sb } := owedKept_quiet rfl rfl rfl rfl rfl rfl

theorem State.startJob_owed (s : State) : owedKept s s.startJob := by
  unfold State.startJob; split
  · exact s.withSb_owed _
  all_goals exact owedKept_refl s

theorem State.nextJob_owed (s : State) : owedKept s s.nextJob :=
  owedKept.trans (s.withSb_owed _) (State.startJob_owed _)

theorem State.cancelJob_owed (s : State) (j : Job) : owedKept s (s.cancelJob j) := by
  cases j
  · exact owedKept_refl s
  · exact s.respond_owed _

theorem State.cancelJobs_owed (s : State) (n : SlotId) : owedKept s (s.cancelJobs n) :=
  owedKept.trans (owedKept.trans (s.withSb_owed _) (owedKept_foldl _ State.cancelJob_owed _ _)) (State.nextJob_owed _)

theorem State.handIdentity_owed (s : State) (n : SlotId) : owedKept s (s.handIdentity n) :=
  owedKept.trans (s.withSb_owed _) (State.startJob_owed _)

theorem State.powerOff_owed (s : State) (n : SlotId) : owedKept s (s.powerOff n) :=
  owedKept.trans (s.cancelJobs_owed n) (State.modSlot_owed _ n _)

theorem State.isolate_owed (s : State) (n : SlotId) : owedKept s (s.isolate n) := s.modSlot_owed n _

theorem State.shutDown_owed (s : State) (n : SlotId) : owedKept s (s.shutDown n) :=
  owedKept.trans (owedKept.trans (s.isolate_owed n) (State.powerOff_owed _ n)) (State.releaseMap_owed _ n)

theorem State.orphan_owed (s : State) (n : SlotId) (sel : AccessKind → Bool) : owedKept s (s.orphan n sel) := by
  refine owedKept_quiet ?_ ?_ ?_ ?_ ?_ ?_ <;> simp
theorem State.freeWaiting_owed (s : State) (n : SlotId) : owedKept s (s.freeWaiting n) := by
  refine owedKept_quiet ?_ ?_ ?_ ?_ ?_ ?_ <;> simp
theorem State.setEntry_owed (s : State) (t : MemTag) (e : Entry) : owedKept s (s.setEntry t e) :=
  owedKept_quiet rfl rfl rfl rfl rfl rfl
theorem State.freeEntry_owed (s : State) (t : MemTag) : owedKept s (s.freeEntry t) :=
  owedKept_quiet rfl rfl rfl rfl rfl rfl
theorem State.answerControl_owed (s : State) (a : ControlAnswer) : owedKept s (s.answerControl a) :=
  owedKept_quiet rfl rfl rfl rfl rfl rfl
/-! ## Frames and the steps between the slot states -/

theorem ite_owed {s t u : State} (p : Prop) [Decidable p] (h : owedKept s t) (k : owedKept s u) : owedKept s (if p then t else u) := by
  split <;> assumption

theorem State.violation_owed (s : State) (n k h c) : owedKept s (s.violation n k h c) := by
  unfold State.violation; simp only
  split
  · exact owedKept.trans (s.modSlot_owed _ _) (State.postEvent_owed _ _)
  · exact s.modSlot_owed _ _

theorem State.admitRead_owed (s : State) (n f) : owedKept s (s.admitRead n f) := by
  unfold State.admitRead; simp only
  split
  · exact s.modSlot_owed _ _
  · split
    · exact s.modSlot_owed _ _
    · split
      · exact s.modSlot_owed _ _
      · split
        · exact owedKept.trans (s.modSlot_owed _ _) (State.violation_owed _ _ _ _ _)
        · exact s.modSlot_owed _ _

theorem State.admitWrite_owed (s : State) (n f) : owedKept s (s.admitWrite n f) := by
  unfold State.admitWrite; simp only
  split
  · exact s.modSlot_owed _ _
  · split
    · exact s.modSlot_owed _ _
    · split
      · exact State.violation_owed _ _ _ _ _
      · exact s.modSlot_owed _ _

theorem State.takeRead_owed (s : State) (n f) : owedKept s (s.takeRead n f) := by
  unfold State.takeRead; simp only
  split
  · exact owedKept_refl s
  · exact s.modSlot_owed _ _
  · split <;> exact s.modSlot_owed _ _
  all_goals
    split
    · exact s.modSlot_owed _ _
    · exact s.admitRead_owed _ _

theorem State.endWrite_owed (s : State) (n f) : owedKept s (s.endWrite n f) := by
  unfold State.endWrite; simp only
  split
  · exact owedKept.trans (s.modSlot_owed _ _) (State.modSlot_owed _ _ _)
  · exact owedKept.trans (s.modSlot_owed _ _) (State.admitWrite_owed _ _ _)

theorem State.takeWrite_owed (s : State) (n f) : owedKept s (s.takeWrite n f) := by
  unfold State.takeWrite; simp only
  split
  · exact owedKept_refl s
  · exact s.modSlot_owed _ _
  all_goals
    split
    · exact s.modSlot_owed _ _
    · split
      · exact s.endWrite_owed _ _
      · split
        · exact s.modSlot_owed _ _
        · exact s.endWrite_owed _ _

theorem State.takeStart_owed (s : State) (n h) : owedKept s (s.takeStart n h) := by
  unfold State.takeStart; simp only
  split
  · exact owedKept_refl s
  · exact s.modSlot_owed _ _
  all_goals
    split
    · exact owedKept_refl s
    · split <;> exact s.modSlot_owed _ _

theorem State.takeItem_owed (s : State) (n i) : owedKept s (s.takeItem n i) := by
  cases i
  · exact s.takeStart_owed _ _
  · exact s.takeRead_owed _ _
  · exact s.takeWrite_owed _ _

theorem State.reopen_owed (s : State) (n m) : owedKept s (s.reopen n m) :=
  owedKept.trans (s.modSlot_owed _ _) (owedKept_foldl _ (fun s i => s.takeItem_owed n i) _ _)

theorem State.identify_owed (s : State) (n) : owedKept s (s.identify n) :=
  owedKept.trans (s.modSlot_owed _ _) (State.handIdentity_owed _ _)

theorem State.powerUp_owed (s : State) (n) : owedKept s (s.powerUp n) := by
  unfold State.powerUp; simp only
  split
  · exact owedKept.trans (s.modSlot_owed _ _) (State.identify_owed _ _)
  · exact s.modSlot_owed _ _

theorem State.faultSlot_owed (s : State) (n c) : owedKept s (s.faultSlot n c) :=
  owedKept.trans (owedKept.trans (s.shutDown_owed n) (State.modSlot_owed _ _ _)) (State.postEvent_owed _ _)

theorem State.endDrain_owed (s : State) (n) : owedKept s (s.endDrain n) := by
  unfold State.endDrain; simp only
  split <;> exact owedKept.trans (owedKept.trans (s.shutDown_owed n) (State.modSlot_owed _ _ _)) (State.postEvent_owed _ _)

theorem State.settleRetiring_owed (s : State) (n) : owedKept s (s.settleRetiring n) :=
  ite_owed _ (s.endDrain_owed n) (owedKept_refl s)

theorem State.endVacating_owed (s : State) (n) : owedKept s (s.endVacating n) :=
  owedKept.trans (owedKept.trans (s.releaseMap_owed n) (State.postEvent_owed _ _)) (State.modSlot_owed _ _ _)

theorem State.settleVacating_owed (s : State) (n) : owedKept s (s.settleVacating n) :=
  ite_owed _ (s.endVacating_owed n) (owedKept_refl s)

theorem State.completeHold_owed (s : State) (n) : owedKept s (s.completeHold n) :=
  owedKept.trans (s.modSlot_owed _ _) (State.postEvent_owed _ _)

theorem State.settleHolding_owed (s : State) (n) : owedKept s (s.settleHolding n) :=
  ite_owed _ (s.completeHold_owed n) (owedKept_refl s)

theorem State.dropReads_owed (s : State) (n) : owedKept s (s.dropReads n) :=
  owedKept.trans (owedKept.trans (s.orphan_owed n _) (State.freeWaiting_owed _ _)) (State.modSlot_owed _ _ _)

theorem State.linkDownDrain_owed (s : State) (n) : owedKept s (s.linkDownDrain n) :=
  owedKept.trans (owedKept.trans (s.isolate_owed n) (State.dropReads_owed _ n)) (State.settleRetiring_owed _ n)

theorem State.retireSlot_owed (s : State) (n) : owedKept s (s.retireSlot n) := by
  have h1 := ((s.shutDown_owed n).trans (State.modSlot_owed _ n Slot.toRetired)).trans
    (State.postEvent_owed _ (.retired n (s.slot n).incarnation false 0))
  have h3 : owedKept s ((s.toRetiring n none).linkDownDrain n) :=
    owedKept.trans (s.modSlot_owed _ _) (State.linkDownDrain_owed _ n)
  have h0 : owedKept s (s.toRetiring n none) := s.modSlot_owed _ _
  have h2 : owedKept s (if (s.toRetiring n none).drained n = true then (s.toRetiring n none).endDrain n
      else (s.toRetiring n none).reopen n .fence) :=
    ite_owed _ (owedKept.trans h0 (State.endDrain_owed _ n)) (owedKept.trans h0 (State.reopen_owed _ n _))
  have h4 := owedKept_refl s
  unfold State.retireSlot
  split
  · exact h1
  · exact h1
  · exact h1
  · exact h1
  · exact h2
  · exact h2
  · exact h2
  · exact h2
  · exact h3
  all_goals exact h4

theorem State.vacate_owed (s : State) (n) : owedKept s (s.vacate n) := by
  unfold State.vacate; simp only
  exact (((((s.isolate_owed n).trans (State.powerOff_owed _ n)).trans (State.modSlot_owed _ _ _)).trans
    (State.dropReads_owed _ n)).trans (State.postEvent_owed _ _)).trans (State.settleVacating_owed _ n)

/-! ## Time -/

theorem State.identityOutcome_owed (s : State) (n w) : owedKept s (s.identityOutcome n w) := by
  have hf : ∀ c, owedKept s (s.identityFailed n c) := fun c => owedKept.trans (s.modSlot_owed _ _) (State.faultSlot_owed _ _ _)
  unfold State.identityOutcome
  split
  · split
    · exact hf _
    · split
      · exact owedKept.trans (s.modSlot_owed _ _) (State.postEvent_owed _ _)
      · exact hf _
  · exact owedKept_refl s

theorem State.failJob_owed (s : State) : owedKept s s.failJob := by
  unfold State.failJob; simp only
  split
  · exact owedKept_refl s
  · exact owedKept.trans (owedKept.trans (s.withSb_owed _) (State.respond_owed _ _)) (State.nextJob_owed _)
  · exact owedKept.trans (owedKept.trans (s.withSb_owed _) (State.identityOutcome_owed _ _ _)) (State.nextJob_owed _)

theorem State.succeedAccess_owed (s : State) (d) : owedKept s (s.succeedAccess d) := by
  unfold State.succeedAccess; simp only
  split
  · exact owedKept_refl s
  · exact owedKept.trans (owedKept.trans (s.withSb_owed _) (State.respond_owed _ _)) (State.nextJob_owed _)
  · split
    · exact s.withSb_owed _
    · exact owedKept.trans (owedKept.trans (s.withSb_owed _) (State.identityOutcome_owed _ _ _)) (State.nextJob_owed _)

theorem State.failAccess_owed (s : State) : owedKept s s.failAccess := ite_owed _ (s.withSb_owed _) s.failJob_owed

theorem State.failOverdue_owed (s : State) : owedKept s s.failOverdue := by
  unfold State.failOverdue
  split
  all_goals first | exact ite_owed _ s.failAccess_owed (owedKept_refl s) | exact owedKept_refl s

theorem State.sampleLine_owed (s : State) : owedKept s s.sampleLine := by
  unfold State.sampleLine
  split
  · rename_i j _ _
    split
    · have h := s.modSlot_owed j.slot fun sl => { sl with sbdatLow := false }
      refine owedKept.trans h ?_
      generalize (s.modSlot j.slot fun sl => { sl with sbdatLow := false }) = b
      exact owedKept_quiet rfl rfl rfl rfl rfl rfl
    · exact owedKept_quiet rfl rfl rfl rfl rfl rfl
  all_goals exact owedKept_refl s

theorem State.endFailed_owed (s : State) : owedKept s s.endFailed := ite_owed _ s.failJob_owed (owedKept_refl s)

theorem State.withNow_owed (s : State) (m : Nat) : owedKept s { s with now := m } := owedKept_quiet rfl rfl rfl rfl rfl rfl

theorem State.tick_owed (s : State) : owedKept s s.tick :=
  (((s.failOverdue_owed.trans (State.withNow_owed _ (s.now + 1))).trans (State.sampleLine_owed _)).trans
    (State.withSb_owed _ _)).trans (State.endFailed_owed _)

theorem State.elapse_owed (k : Nat) (s : State) : owedKept s (s.elapse k) := by
  induction k generalizing s with
  | zero => exact owedKept_refl s
  | succ k ih => exact owedKept.trans s.tick_owed (ih _)

theorem State.reach_owed (s : State) (m : Nat) : owedKept s (s.reach m) := s.elapse_owed _

/-! ## The Scrub Engine -/

theorem State.scrubTake_owed (s : State) : owedKept s s.scrubTake := by
  unfold State.scrubTake
  split
  · exact owedKept_refl s
  · rename_i x rest hq
    split
    · exact owedKept_refl s
    · split
      · exact fun ha => ⟨ha, fun u hu => hu.elim id fun h => absurd (by
          cases u <;> simp [State.unitShows, headerFields, ExtentTable.countOf, ExtentTable.live, hq, State.slot, extentMapValue]) h⟩
      · exact owedKept.trans (s.setExtent_owed x _) (owedKept_header rfl rfl fun _ => rfl)

theorem State.endPass_owed (s : State) (x : Nat) : owedKept s (s.endPass x) := by
  unfold State.endPass
  dsimp only
  have h1 := s.setExtent_owed x ⟨if s.scrub.errors = 0 then .free else .bad, none, 0, false⟩
  have h2 (b : State) : owedKept b ({ b with scrub := ⟨none, 0, 0, 0, 0, b.scrub.deferral⟩ } : State) :=
    owedKept_quiet rfl rfl rfl rfl rfl rfl
  have h3 := (ite_owed (s.scrub.errors = 0) h1
    (h1.trans (State.postEvent_owed _ (.extentBad x s.scrub.errors s.scrub.timeouts)))).trans (h2 _)
  exact ite_owed _ (h3.trans (State.postEvent_owed _ _)) (h3.trans (State.scrubTake_owed _))

end Sys2Proof.Machine
end

