-- ==== Sys2Proof/WellFormed.lean ====
section
/-! DEFINITION. The checks of a command's operands that its types do not make: what the links and the memory
port can carry at all. A malformed blade frame is well formed here, since the link carries it (R61). -/

namespace Sys2Proof

/-- A control WRITE carries one masked beat for each beat of its field; a READ carries none (R178). -/
def ControlReq.wellFormed (r : ControlReq) : Bool :=
  match r.kind with
  | .read => r.data.isEmpty
  | .write => r.data.length == r.beats

/-- A completion carries at most 32 beats, and none with status ERROR (R105). -/
def completionWellFormed (ok : Bool) (data : List Beat) : Bool :=
  if ok then decide (data.length ≤ 32) else data.isEmpty

/-- The checks of a command's operands. -/
def Instr.wellFormed : Instr → Bool
  | .controlRequest r => r.wellFormed
  | .memoryCompletion _ ok data => completionWellFormed ok data
  | .reset | .presenceRise _ | .presenceDrop _ | .ejectorOpened _ | .ejectorClosed _ | .pwrGoodRise _
  | .pwrGoodDrop _ | .debounceExpiry _ | .powerLimitExpiry _ | .probeLimitExpiry _ | .rampStepExpiry _
  | .holdLimitExpiry _ | .graceExpiry _ | .drainLimitExpiry _ | .vacatingDrainLimitExpiry _ | .linkUp _
  | .linkDown _ | .readFrame _ _ | .writeFrame _ _ | .keyAccepted _ | .probeFault _ | .grant _
  | .completionTimeout _ | .sidebandAccessEnd _ _ | .sidebandTimeoutExpiry | .requestTake | .admission | .stage
  | .commit | .hold | .resume | .retire | .restart | .publish | .withdraw | .sideband | .query | .detach
  | .responseWrite | .statusUnitWrite | .scrubTake | .scrubPassEnd | .drainEnd _ | .holdDrainComplete _
  | .vacatingEnd _ | .frameStart _ _ | .sidebandAcknowledgement _ => true

end Sys2Proof
end

