-- ==== Sys2Proof/Tests/Slice0.lean ====
section
/-! SUPPORT. Small checks of the model: malformed operands that the check refuses, what one command does on a small
state, and for each statement with hypotheses a state that meets them. -/

namespace Sys2Proof.Tests

set_option Elab.async false

open Sys2Proof Sys2Proof.Machine

/-! ## Malformed operands -/

theorem test_wellFormed_refuses_control_read_with_data :
    Instr.wellFormed (.controlRequest ⟨0, .read, 0, 1, [⟨0xFF, 0⟩]⟩) = false := by decide

theorem test_wellFormed_refuses_control_write_of_another_length :
    Instr.wellFormed (.controlRequest ⟨0, .write, 0, 2, [⟨0xFF, 0⟩]⟩) = false := by decide

theorem test_wellFormed_refuses_completion_of_33_beats :
    Instr.wellFormed (.memoryCompletion 0 true (List.replicate 33 0)) = false := by decide

theorem test_wellFormed_refuses_error_completion_with_data :
    Instr.wellFormed (.memoryCompletion 0 false [0]) = false := by decide

theorem test_wellFormed_accepts_control_write_of_its_length :
    Instr.wellFormed (.controlRequest ⟨0, .write, 0, 1, [⟨0xFF, 0⟩]⟩) = true := by decide

/-! ## Small states -/

/-- The part attached, with rings of 8 entries and short timers, auto-retire on and one extent. -/
def base : State :=
  { State.reset with
    ring := { Ring.reset with state := .attached, reqSize := 8, respSize := 8 }
    params := ⟨1, 1, 1, 3, 1, 5, 1, 1, true⟩
    ext := { ExtentTable.reset with count := 2 }
    sb := { Sideband.reset with timeout := 1 } }

/-- Slot 1 (index 0) of the attached part. -/
def withSlot (sl : Slot) : State := { base with slots := base.slots.set 0 sl }

/-- A powered slot in a state before its link is enabled. -/
def powered (st : SlotState) : Slot :=
  { Slot.reset with state := st, present := true, pwrEn := true, incarnation := 4, timer := .running 0 7 }

/-- A slot whose link is up, in a state with intake: credit 2, one RW page. -/
def linked (st : SlotState) (mode : Intake) : Slot :=
  { powered st with
    pwrGood := true, linkEn := true, linkUp := true, intake := mode, placesOpen := 8, cfgCredit := 2, effCredit := 1
    maxBeats := 32, map := (Vector.replicate 32 none).set 0 (some ⟨0, 1, true⟩) }

/-- A queued write. -/
def aWrite : IngressEntry := ⟨0, 1, .write [⟨0xFF, 5⟩]⟩

/-- A queued read. -/
def aRead : IngressEntry := ⟨8, 1, .read 3⟩

/-- A slot with a write queued. -/
def busy (st : SlotState) (mode : Intake) : Slot := { linked st mode with ingress := [aWrite], placesOpen := 7 }

/-- A slot in GRACE from LIVE. -/
def graced : Slot := { linked .grace .translated with resume := some .live, linkUp := false, placesOpen := 0 }

/-- A slot in PROBING with its place advertised. -/
def probing : Slot := { linked .probing .probe with effCredit := 0, placesOpen := 1 }

/-- A request for slot 1. -/
def ask (kind : Byte) (p4 p5 p6 p7 p8 p9 : Byte) : Request := ⟨kind, 1, 0x1234, p4, p5, p6, p7, p8, p9⟩

/-- A request in execution over a state. -/
def asking (r : Request) (s : State) : State := { s with ring := { s.ring with exec := some r, reserved := 1 } }

/-- A tracker entry of slot 1's READ with tag 3. -/
def readEntry (st : EntryState) : Entry := ⟨st, .slot 0, 4, .read, .blade 3, 8, 1, 50, .none⟩

/-- A tracker entry of a WRITE of slot 1. -/
def writeEntry (st : EntryState) : Entry := ⟨st, .slot 0, 4, .write, .none, 8, 1, 50, .none⟩

/-- The engine running a job in a phase. -/
def running (j : Job) (p : Phase) (s : State) : State :=
  { s with sb := { s.sb with running := some j, phase := p, phaseEnds := 18 } }

/-- The state after a command; the state itself where it does not answer a next state. -/
def after (c : Instr) (s : State) : State :=
  match exec c s with
  | .next t => t
  | .fault _ => s
  | .refused _ => s

/-- Slot 1 after a command. -/
def slotAfter (c : Instr) (s : State) : Slot := (after c s).slot 0

/-- The records that a command hands over. -/
def postsAfter (c : Instr) (s : State) : List RingRecord := (after c s).ring.pend

/-! ## One command on a small state -/

theorem test_idle_step_is_one_microsecond :
    step base = .next { base with now := 1 } := by rfl

theorem test_reset : (after .reset (withSlot (linked .live .translated))).ring.state = .detached ∧
    (slotAfter .reset (withSlot (linked .live .translated))).state = .empty := by decide +kernel

theorem test_presenceRise : (slotAfter (.presenceRise 0) base).state = .seating ∧
    (slotAfter (.presenceRise 0) base).timer = .running 0 1000 := by decide +kernel

theorem test_presenceDrop : (slotAfter (.presenceDrop 0) (withSlot (busy .live .translated))).state = .vacating ∧
    postsAfter (.presenceDrop 0) (withSlot (busy .live .translated)) = [.event (.removed 0 4 true .live)] := by
  decide +kernel

theorem test_ejectorOpened : (slotAfter (.ejectorOpened 0) (withSlot (busy .live .translated))).state = .retiring ∧
    postsAfter (.ejectorOpened 0) (withSlot (busy .live .translated)) = [.event (.ejector 0 4 true)] := by
  decide +kernel

theorem test_ejectorClosed : postsAfter (.ejectorClosed 0) (withSlot (powered .pending)) =
    [.event (.ejector 0 4 false)] := by decide +kernel

theorem test_pwrGoodRise : (slotAfter (.pwrGoodRise 0) (withSlot (powered .powering))).state = .identifying ∧
    (after (.pwrGoodRise 0) (withSlot (powered .powering))).sb.phase = .command := by decide +kernel

theorem test_pwrGoodDrop : postsAfter (.pwrGoodDrop 0) (withSlot (powered .pending)) =
    [.event (.faulted 0 4 false 0 .powerLost 0)] := by decide +kernel

theorem test_debounceExpiry : (slotAfter (.debounceExpiry 0) (withSlot (powered .seating))).state = .powering ∧
    (after (.debounceExpiry 0) (withSlot (powered .seating))).now = 7 := by decide +kernel

theorem test_powerLimitExpiry : (slotAfter (.powerLimitExpiry 0) (withSlot (powered .powering))).fault =
    some .powerTimeout := by decide +kernel

theorem test_probeLimitExpiry : (slotAfter (.probeLimitExpiry 0) (withSlot probing)).fault =
    some .probeTimeout := by decide +kernel

theorem test_rampStepExpiry : postsAfter (.rampStepExpiry 0) (withSlot (linked .settling .translated)) =
    [.event (.live 0 4 2)] := by decide +kernel

theorem test_holdLimitExpiry : postsAfter (.holdLimitExpiry 0) (withSlot (busy .holding .closed)) =
    [.event (.holdFailed 0 4 1 0 0)] := by decide +kernel

theorem test_graceExpiry : postsAfter (.graceExpiry 0) (withSlot graced) =
    [.event (.faulted 0 4 false 0 .link 0)] := by decide +kernel

theorem test_drainLimitExpiry : postsAfter (.drainLimitExpiry 0)
    ((withSlot (busy .retiring .fence)).setEntry 0 (writeEntry .issued)) = [.event (.retired 0 4 true 1)] := by
  decide +kernel

theorem test_vacatingDrainLimitExpiry :
    (slotAfter (.vacatingDrainLimitExpiry 0) (withSlot { powered .vacating with ingress := [aWrite] })).state =
      .seating := by decide +kernel

theorem test_linkUp_delivers_held : (slotAfter (.linkUp 0)
    ((withSlot { graced with holdList := [0] }).setEntry 0
      { readEntry .waiting with held := .completion true [9] })).dataOut = [⟨3, .ok, [9]⟩] := by decide +kernel

theorem test_linkDown : postsAfter (.linkDown 0) (withSlot (linked .live .translated)) =
    [.event (.linkLost 0 4 .live false 0)] := by decide +kernel

theorem test_readFrame : (slotAfter (.readFrame 0 ⟨3, 16, 2⟩) (withSlot (linked .live .translated))).ingress =
    [⟨65552, 2, .read 3⟩] := by decide +kernel

theorem test_writeFrame_probe : (slotAfter (.writeFrame 0 ⟨true, ⟨0, 1⟩, [⟨0xFF, 0xFFFFFFFFFFFFFFFE⟩]⟩)
    (withSlot probing)).laneMask = 1 := by decide +kernel

theorem test_frameStart : (slotAfter (.frameStart 0 ⟨0, 1⟩) (withSlot (linked .live .translated))).placesOpen = 7 := by
  decide +kernel

theorem test_keyAccepted : (slotAfter (.keyAccepted 0) (withSlot { probing with outcome := some .keyAccepted })).state =
    .settling := by decide +kernel

theorem test_probeFault : postsAfter (.probeFault 0)
    (withSlot { probing with outcome := some .laneMismatch, laneMask := 6 }) =
      [.event (.faulted 0 4 false 0 .lane 6)] := by decide +kernel

theorem test_grant : (after (.grant 3) (withSlot (busy .live .translated))).entry 0 =
    ⟨.issued, .slot 0, 4, .write, .none, 0, 1, 65538, .none⟩ := by decide +kernel

theorem test_memoryCompletion : (slotAfter (.memoryCompletion 0 true [9])
    ((withSlot (linked .live .translated)).setEntry 0 (readEntry .issued))).dataOut = [⟨3, .ok, [9]⟩] := by
  decide +kernel

theorem test_completionTimeout : ((after (.completionTimeout 0)
    ((withSlot graced).setEntry 0 (readEntry .issued))).entry 0).held = .timeout := by decide +kernel

theorem test_sidebandAccessEnd : postsAfter (.sidebandAccessEnd 7 true)
    (running (.request 0 false 9 0 0x1234) .readData (withSlot (powered .pending))) =
      [.response ⟨.ok, 1, 10, 0x1234, .sideband 9 7⟩] := by decide +kernel

theorem test_sidebandTimeoutExpiry : (slotAfter .sidebandTimeoutExpiry
    (running (.identity 0 []) .lineCheck { withSlot (powered .identifying) with now := 10 })).fault =
      some .identityTimeout ∧
    (after .sidebandTimeoutExpiry
      (running (.identity 0 []) .ackWait { withSlot (powered .identifying) with now := 10 })).sb.phase = .stop := by
  decide +kernel

theorem test_sidebandAcknowledgement : (after (.sidebandAcknowledgement 0)
    (running (.request 0 true 9 0 0) .ackWait { withSlot (powered .pending) with now := 20 })).sb.phase = .stop := by
  decide +kernel

theorem test_requestTake : (after .requestTake { base with ring := { base.ring with held := some (ask 4 0 0 0 0 0 0) } }).ring.queue =
    [.taken 0, .fetch 1] := by decide +kernel

theorem test_admit : (slotAfter .admission
    (asking (ask 1 2 4 0 0 0 0) (withSlot { powered .pending with identity := Vector.replicate 8 2 }))).state =
      .probing := by decide +kernel

theorem test_stage : postsAfter .stage (asking (ask 2 0 1 5 2 1 0) base) =
    [.response ⟨.ok, 1, 2, 0x1234, .staged 1⟩] := by decide +kernel

theorem test_commit : postsAfter .commit (asking (ask 3 0 0 0 0 0 0)
    (withSlot { powered .pending with staging := (Vector.replicate 32 none).set 0 (some ⟨0, 2, true⟩) })) =
      [.response ⟨.badField, 1, 3, 0x1234, .commitFailed 0 1 none⟩] := by decide +kernel

theorem test_hold : postsAfter .hold (asking (ask 4 0 0 0 0 0 0) (withSlot (linked .live .translated))) =
    [.response ⟨.accepted, 1, 4, 0x1234, .incarnation 4⟩, .event (.held 0 4)] := by decide +kernel

theorem test_resume : (slotAfter .resume (asking (ask 5 0 0 0 0 0 0)
    (withSlot { linked .held .closed with heldBack := [.read ⟨3, 0, 1⟩] }))).ingress = [⟨65536, 1, .read 3⟩] := by
  decide +kernel

theorem test_retire : postsAfter .retire (asking (ask 6 0 0 0 0 0 0) (withSlot (powered .pending))) =
    [.response ⟨.accepted, 1, 6, 0x1234, .incarnation 4⟩, .event (.retired 0 4 false 0)] := by decide +kernel

theorem test_restart : (slotAfter .restart (asking (ask 7 0 0 0 0 0 0)
    (withSlot { Slot.reset with state := .faulted, fault := some .lane, removeOk := true }))).state = .powering := by
  decide +kernel

theorem test_publish : ((after .publish (asking (ask 8 1 0 0 0 0 0) base)).extent 1).state = .shared := by decide +kernel

theorem test_withdraw : (after .withdraw (asking (ask 9 1 0 0 0 0 0) (base.setExtent 1 ⟨.shared, none, 0, false⟩))).ext.queue =
    [1] := by decide +kernel

theorem test_sideband : (after .sideband (asking (ask 10 2 8 7 0 0 0) (withSlot (powered .pending)))).sb.running =
    some (.request 0 true 8 7 0x1234) := by decide +kernel

theorem test_query : (slotAfter .query (asking (ask 11 1 0 0 0 0 0)
    (withSlot { powered .pending with counters := { Counters.zero with late := 9 } }))).counters.late = 0 := by
  decide +kernel

theorem test_detach : (after .detach (asking (ask 12 0 0 0 0 0 0) (withSlot (powered .pending)))).ring.state = .draining ∧
    (slotAfter .detach (asking (ask 12 0 0 0 0 0 0) (withSlot (powered .pending)))).present = true := by decide +kernel

theorem test_responseWrite : (after .responseWrite
    { base with ring := { base.ring with pend := [.event (.held 0 4)] } }).ring.producer = 1 := by decide +kernel

theorem test_statusUnitWrite : (after .statusUnitWrite
    { base with ring := { base.ring with stale := [.header] } }).ring.queue = [.status .header] := by decide +kernel

theorem test_controlRequest : (after (.controlRequest ⟨7, .read, 4, 1, []⟩) base).ctl.answers = [⟨7, .memoryError, []⟩] := by
  decide +kernel

theorem test_scrubTake : (after .scrubTake { base with ext := { base.ext with queue := [1] } }).scrub.current = some 1 := by
  decide +kernel

theorem test_scrubPassEnd : (postsAfter .scrubPassEnd { base with scrub := ⟨some 1, 256, 256, 1, 0, 0⟩ }).head? =
    some (.event (.extentBad 1 1 0)) := by decide +kernel

theorem test_drainEnd : (slotAfter (.drainEnd 0) (withSlot (linked .retiring .fence))).state = .retired := by decide +kernel

theorem test_holdDrainComplete : (slotAfter (.holdDrainComplete 0) (withSlot (linked .holding .closed))).state = .held := by
  decide +kernel

theorem test_vacatingEnd : (slotAfter (.vacatingEnd 0)
    (withSlot { powered .vacating with present := false, seated := true })).counters.bounce = 1 := by decide +kernel

/-! ## The hypotheses of the statements are met

One theorem for each statement with hypotheses; a statement of several clauses has a state for each. -/

theorem test_stop_mark_of_a_failed_access_lasts_two_microseconds :
    (((running (.identity 0 []) .ackWait { withSlot (powered .identifying) with now := 10 }).elapse 1).sbdat 0 =
      .stopMark) ∧
    (((running (.identity 0 []) .ackWait { withSlot (powered .identifying) with now := 10 }).elapse 2).slot 0).fault =
      some .identityTimeout := by decide +kernel

theorem test_acknowledgement_outside_ackWait_is_ignored :
    (after (.sidebandAcknowledgement 0)
      (running (.identity 0 []) .command (withSlot (powered .identifying)))).sb.phase = .command := by decide +kernel

theorem hyps_StepRunsTheFrontCommand_each_case :
    ({ base with pending := [.scrubTake, .scrubTake] } : State).pending = .scrubTake :: [.scrubTake] ∧
    base.pending = [] ∧ 0 ≤ ({ base with now := 1 } : State).now ∧ base.now ≤ 0 := ⟨rfl, rfl, by decide, by decide⟩

theorem hyps_ResetPutsEveryBlockToItsResetValues : base.ctl.heldBack = [] := rfl

theorem hyps_PresenceRiseSeatsOrRecords_each_case :
    (base.ring.state = .attached ∧ (base.slot 0).state = .empty) ∧
    (base.ring.state = .attached ∧ ((withSlot (powered .vacating)).slot 0).state = .vacating) ∧
    ((withSlot (powered .pending)).ring.state = .attached ∧ ((withSlot (powered .pending)).slot 0).state = .pending) ∧
    State.reset.ring.state ≠ .attached := by decide +kernel

theorem hyps_PresenceDropOutsideTrafficEmpties_each_case :
    base.ring.state = .attached ∧
    (∀ st ∈ ([.powering, .identifying, .pending, .probing, .retired, .faulted] : List SlotState),
      ((withSlot (powered st)).slot 0).state = st) ∧
    ((withSlot (powered .seating)).slot 0).state = .seating ∧
    ((withSlot (powered .vacating)).slot 0).state = .vacating ∧ (base.slot 0).state = .empty ∧
    State.reset.ring.state ≠ .attached := by decide +kernel

/-- Slot 1 with a read queued and another kept WAITING, and no write. -/
def readsLeft (st : SlotState) (mode : Intake) : State :=
  (withSlot { linked st mode with ingress := [aRead] }).setEntry 63 (readEntry .waiting)

/-- Slot 1 with nothing queued and one write in flight. -/
def writeInFlight (st : SlotState) (mode : Intake) : State := (withSlot (linked st mode)).setEntry 63 (writeEntry .late)

/-- The write of a busy slot and a write in flight alone are writes left; queued and waiting reads are none. -/
theorem writesLeft_each_case (st : SlotState)
    (h : st ∈ ([.settling, .live, .holding, .held, .grace, .retiring] : List SlotState)) :
    ((withSlot (busy st .translated)).slot 0).state = st ∧ (withSlot (busy st .translated)).writesLeft 0 ∧
    ((writeInFlight st .translated).slot 0).state = st ∧ (writeInFlight st .translated).writesLeft 0 ∧
    ((readsLeft st .translated).slot 0).state = st ∧ ¬ (readsLeft st .translated).writesLeft 0 := by
  revert st
  unfold State.writesLeft
  decide +kernel

theorem hyps_PresenceDropInTrafficVacates_each_case (st : SlotState)
    (h : st ∈ ([.settling, .live, .holding, .held, .grace, .retiring] : List SlotState)) :
    base.ring.state = .attached ∧ ((withSlot (busy st .translated)).slot 0).state = st ∧
    (withSlot (busy st .translated)).writesLeft 0 ∧ (writeInFlight st .translated).writesLeft 0 ∧
    ((readsLeft st .translated).slot 0).state = st ∧ ¬ (readsLeft st .translated).writesLeft 0 :=
  have w := writesLeft_each_case st h
  ⟨rfl, w.1, w.2.1, w.2.2.2.1, w.2.2.2.2.1, w.2.2.2.2.2⟩

theorem hyps_EjectorEdgesRecordAndPost :
    ¬ (State.reset.ring.state = .attached ∧ State.reset.params.autoRetire = true) ∧
    ((withSlot (powered .pending)).slot 0).state ∉ ([.settling, .live, .holding, .held, .grace] : List SlotState) := by
  decide +kernel

/-- A slot on whose link a READ is held back. -/
def holdingBack (sl : Slot) : Slot := { sl with heldBack := [.read ⟨3, ⟨0, 1⟩⟩] }

theorem hyps_EjectorOpenedAutoRetires_each_case :
    base.params.autoRetire = true ∧ base.ring.state = .attached ∧
    (∀ st ∈ ([.settling, .live, .holding, .held] : List SlotState),
      ((withSlot (holdingBack (busy st .closed))).slot 0).state = st ∧
      ((withSlot (holdingBack (busy st .closed))).slot 0).ingress ≠ [] ∧
      ((withSlot (holdingBack (busy st .closed))).slot 0).linkEn = true ∧
      ((withSlot (holdingBack (busy st .closed))).slot 0).linkUp = true ∧
      (writeInFlight st .translated).inFlight (.slot 0) ≠ 0 ∧ ((withSlot (linked st .translated)).slot 0).ingress = [] ∧
      (withSlot (linked st .translated)).inFlight (.slot 0) = 0) ∧
    ((withSlot graced).slot 0).state = .grace := by decide +kernel

/-- The job queue with `k` jobs of slot 2 behind a running one in COMMAND. -/
def queuedJobs (k : Nat) (s : State) : State :=
  { s with
    sb := { s.sb with running := some (.identity 1 []), phase := .command, queue := List.replicate k (.identity 1 []) } }

/-- Slots 3 and 10 waiting for a place behind 16 queued jobs. -/
def crowded (s : State) : State := { queuedJobs 16 s with sb := { (queuedJobs 16 s).sb with waiting := [2, 9] } }

theorem hyps_PwrGoodRiseIdentifies_each_case :
    (((withSlot (powered .powering)).slot 0).state = .powering ∧ base.ring.state = .attached) ∧
    (base.sb.running = none ∧ base.sb.queue = [] ∧ base.sb.waiting.Pairwise (· < ·)) ∧
    ((queuedJobs 15 base).sb.running ≠ none ∧ (queuedJobs 15 base).sb.queue.length = 15 ∧
      (queuedJobs 15 base).sb.waiting.Pairwise (· < ·)) ∧
    ((crowded base).sb.running ≠ none ∧ (crowded base).sb.queue.length = 16 ∧ (crowded base).sb.waiting = [2, 9] ∧
      (crowded base).sb.waiting.Pairwise (· < ·)) ∧
    (((withSlot (powered .pending)).slot 0).state ≠ .powering ∧ State.reset.ring.state ≠ .attached) := by decide +kernel

theorem hyps_PwrGoodDropBeforeTrafficFaults :
    ∀ st ∈ ([.identifying, .pending, .probing] : List SlotState),
      base.ring.state = .attached ∧ ((withSlot (powered st)).slot 0).state = st := by decide +kernel

theorem hyps_PwrGoodDropInTrafficRetires_each_case :
    base.ring.state = .attached ∧
    (∀ st ∈ ([.settling, .live, .holding, .held, .grace] : List SlotState),
      ((withSlot (busy st .translated)).slot 0).state = st ∧ ((readsLeft st .translated).slot 0).state = st) ∧
    (((withSlot (busy .retiring .fence)).slot 0).state = .retiring ∧
      ((withSlot (busy .retiring .fence)).slot 0).pwrEn = true) ∧
    (∀ st ∈ ([.seating, .powering, .retired, .faulted, .vacating] : List SlotState),
      ((withSlot (powered st)).slot 0).state = st) ∧
    (((withSlot { linked .retiring .none with pwrEn := false }).slot 0).state = .retiring ∧
      ((withSlot { linked .retiring .none with pwrEn := false }).slot 0).pwrEn = false) := by decide +kernel

theorem hyps_ExpiriesActOnlyInTheirState :
    (∀ st ∈ ([.seating, .powering, .probing, .settling, .holding, .grace, .retiring, .vacating] : List SlotState),
      (base.slot 0).state ≠ st) ∧ (base.slot 0).state ≠ .identifying := by decide +kernel

theorem hyps_DebounceExpiryPowers_each_case :
    (((withSlot (powered .seating)).slot 0).state = .seating ∧ ((withSlot (powered .seating)).slot 0).pwrGood = false) ∧
    (((withSlot { powered .seating with pwrGood := true }).slot 0).state = .seating ∧
      ((withSlot { powered .seating with pwrGood := true }).slot 0).pwrGood = true) := by decide +kernel

theorem hyps_FaultsBeforeTraffic_each_case :
    ((withSlot (powered .powering)).slot 0).state = .powering ∧ ((withSlot probing).slot 0).state = .probing ∧
    ((withSlot probing).slot 0).linkEn = true ∧ ((withSlot probing).slot 0).linkUp = true ∧
    ∀ o ∈ ([.laneMismatch, .wrongKey, .glitchLimit] : List ProbeOutcome),
      ((withSlot { probing with outcome := some o }).slot 0).state = .probing ∧
      ((withSlot { probing with outcome := some o }).slot 0).outcome = some o := by decide +kernel

theorem hyps_RampStepRaisesTheCredit_each_case :
    ((withSlot (linked .settling .translated)).slot 0).state = .settling ∧
    ((withSlot (linked .settling .translated)).slot 0).effCredit + 1 =
      ((withSlot (linked .settling .translated)).slot 0).cfgCredit ∧
    ((withSlot { linked .settling .translated with cfgCredit := 16 }).slot 0).effCredit + 1 ≠
      ((withSlot { linked .settling .translated with cfgCredit := 16 }).slot 0).cfgCredit := by decide +kernel

theorem hyps_HoldEndsInHeldOrLive_each_case :
    (((withSlot (linked .holding .closed)).slot 0).state = .holding ∧
      ((withSlot (linked .holding .closed)).slot 0).ingress = [] ∧
      (withSlot (linked .holding .closed)).inFlight (.slot 0) = 0) ∧
    (((withSlot (linked .holding .closed)).slot 0).linkUp = true ∧
      ((withSlot (linked .holding .closed)).slot 0).heldBack = []) ∧
    (((withSlot (holdingBack (linked .holding .closed))).slot 0).state = .holding ∧
      ((withSlot (holdingBack (linked .holding .closed))).slot 0).linkEn = true ∧
      ((withSlot (holdingBack (linked .holding .closed))).slot 0).linkUp = true ∧
      ((withSlot (holdingBack (linked .holding .closed))).slot 0).heldBack ≠ []) := by decide +kernel

theorem hyps_GraceExpiryRetires_each_case :
    ((withSlot { graced with ingress := [aWrite] }).slot 0).state = .grace ∧
    (withSlot { graced with ingress := [aWrite] }).writesLeft 0 ∧ ¬ (withSlot graced).writesLeft 0 := by
  unfold State.writesLeft
  decide +kernel

theorem hyps_DrainLimitExpiryForcesTheEnd_each_case :
    ∀ p ∈ ([none, some .powerLost, some .link] : List (Option PendingFault)),
      ((withSlot { busy .retiring .fence with pendingFault := p }).slot 0).state = .retiring ∧
      ((withSlot { busy .retiring .fence with pendingFault := p }).slot 0).pendingFault = p := by decide +kernel

theorem hyps_DrainEndRetiresOrFaults_each_case :
    ∀ p ∈ ([none, some .powerLost, some .link] : List (Option PendingFault)),
      ((withSlot { linked .retiring .fence with pendingFault := p }).slot 0).state = .retiring ∧
      ((withSlot { linked .retiring .fence with pendingFault := p }).slot 0).pendingFault = p ∧
      ((withSlot { linked .retiring .fence with pendingFault := p }).slot 0).ingress = [] ∧
      (withSlot { linked .retiring .fence with pendingFault := p }).inFlight (.slot 0) = 0 := by decide +kernel

theorem hyps_VacatingEnds_drained :
    ((withSlot (powered .vacating)).slot 0).state = .vacating ∧ ((withSlot (powered .vacating)).slot 0).ingress = [] ∧
    (withSlot (powered .vacating)).inFlight (.slot 0) = 0 := by decide +kernel

theorem hyps_VacatingEnds_drain_limit :
    ((withSlot { powered .vacating with ingress := [aWrite] }).slot 0).state = .vacating ∧
    ∀ q ∈ ((withSlot { powered .vacating with ingress := [aWrite] }).slot 0).ingress, ∃ d, q.body = .write d := by
  refine ⟨by decide +kernel, ?_⟩
  intro q hq
  have h : ((withSlot { powered .vacating with ingress := [aWrite] }).slot 0).ingress = [aWrite] := by decide +kernel
  rw [h, List.mem_singleton] at hq
  exact ⟨_, by rw [hq]; rfl⟩

/-- The part with a grace of 0. -/
def noGrace (s : State) : State := { s with params := { s.params with grace := 0 } }

theorem hyps_LinkDownEntersGrace_each_case :
    (∀ st ∈ ([.settling, .live, .holding, .held] : List SlotState),
      ((withSlot (busy st .translated)).slot 0).state = st ∧ ((withSlot (busy st .translated)).slot 0).linkEn = true ∧
      ((withSlot (busy st .translated)).slot 0).linkUp = true) ∧
    base.params.grace ≠ 0 ∧ (noGrace base).params.grace = 0 ∧
    (((withSlot (busy .retiring .fence)).slot 0).state = .retiring ∧
      ((withSlot (busy .retiring .fence)).slot 0).linkEn = true ∧
      ((withSlot (busy .retiring .fence)).slot 0).linkUp = true) := by decide +kernel

/-- A GRACE slot that returns to a state, with a completion and a TIMEOUT on its hold list. -/
def answersHeld (back : SlotState) (mode : Intake) : State :=
  ((withSlot { graced with resume := some back, intake := mode, holdList := [63, 0] }).setEntry 63
    { readEntry .waiting with held := .completion true [9] }).setEntry 0 { readEntry .late with held := .timeout }

theorem hyps_LinkUpProbesOrRecovers_each_case :
    (((withSlot { probing with linkUp := false }).slot 0).linkEn = true ∧
      ((withSlot { probing with linkUp := false }).slot 0).linkUp = false ∧
      ((withSlot { probing with linkUp := false }).slot 0).state = .probing) ∧
    (∀ p ∈ ([(.live, .translated), (.settling, .translated), (.holding, .closed), (.held, .closed)] :
        List (SlotState × Intake)),
      ((answersHeld p.1 p.2).slot 0).linkEn = true ∧ ((answersHeld p.1 p.2).slot 0).linkUp = false ∧
      ((answersHeld p.1 p.2).slot 0).state = .grace ∧ ((answersHeld p.1 p.2).slot 0).resume = some p.1 ∧
      ((answersHeld p.1 p.2).slot 0).intake = p.2 ∧ ((answersHeld p.1 p.2).slot 0).holdList = [63, 0]) ∧
    (((withSlot { graced with resume := some .holding, intake := .closed }).slot 0).holdList = [] ∧
      ((withSlot { graced with resume := some .holding, intake := .closed }).slot 0).ingress = [] ∧
      (withSlot { graced with resume := some .holding, intake := .closed }).inFlight (.slot 0) = 0) := by
  decide +kernel

/-- Slot 1 LIVE with one place open. -/
def onePlace : State := withSlot { linked .live .translated with placesOpen := 1 }

/-- The last 32 beats of page 0 of the window. -/
def lastBeats : FrameHeader := ⟨65280, 32⟩

theorem hyps_TranslatedFramesAreQueued_read :
    (onePlace.slot 0).linkEn = true ∧ (onePlace.slot 0).linkUp = true ∧ (onePlace.slot 0).intake = .translated ∧
    (onePlace.slot 0).placesOpen ≠ 0 ∧ (onePlace.slot 0).tags.get 15 = false ∧ lastBeats.addr.toNat % 8 = 0 ∧
    lastBeats.beats ≤ (onePlace.slot 0).maxBeats ∧ lastBeats.addr.toNat % 65536 + 8 * lastBeats.beats = 65536 ∧
    findPage (onePlace.slot 0).map (bladePage lastBeats.addr) = some ⟨0, 1, true⟩ := by decide +kernel

/-- A WRITE of the last 32 beats of a page. -/
def lastWrite : WriteFrame := ⟨true, lastBeats, List.replicate 32 ⟨0xFF, 1⟩⟩

theorem hyps_TranslatedFramesAreQueued_write :
    (onePlace.slot 0).linkEn = true ∧ (onePlace.slot 0).linkUp = true ∧ (onePlace.slot 0).intake = .translated ∧
    (onePlace.slot 0).endsFrame lastWrite lastBeats ∧
    ((withSlot { linked .live .translated with placesOpen := 0, partly := some lastBeats }).slot 0).endsFrame lastWrite
      lastBeats ∧
    writeFormed lastWrite lastBeats ∧ (onePlace.slot 0).withinPage lastBeats ∧
    findPage (onePlace.slot 0).map (bladePage lastBeats.addr) = some ⟨0, 1, true⟩ := by
  unfold Slot.endsFrame writeFormed headerFormed Slot.withinPage
  decide +kernel

/-- Slot 1 LIVE with an RO page in its map and 31 beats at most. -/
def readOnly : State :=
  withSlot { linked .live .translated with maxBeats := 31, map := (Vector.replicate 32 none).set 0 (some ⟨0, 1, false⟩) }

/-- Slot 1 under the fence. -/
def fenced : State := withSlot (linked .retiring .fence)

/-- A header for each cause of refusal, at the edge of its range. -/
def refusedHead : ViolationCause → FrameHeader
  | .outOfWindow => ⟨0x200000, 32⟩
  | .oversize => ⟨0x1FFF00, 32⟩
  | .boundary => ⟨0xFFF8, 2⟩
  | .unmapped => ⟨0x10000, 31⟩
  | .readOnly => ⟨0xFF08, 31⟩

/-- A WRITE of as many beats as a header says. -/
def writeOf (h : FrameHeader) : WriteFrame := ⟨true, h, List.replicate h.beats ⟨0xFF, 1⟩⟩

theorem hyps_refused_each_cause :
    (readOnly.slot 0).linkEn = true ∧ (readOnly.slot 0).linkUp = true ∧ (readOnly.slot 0).intake = .translated ∧
    (readOnly.slot 0).placesOpen ≠ 0 ∧ (readOnly.slot 0).tags.get 0 = false ∧
    (∀ c ∈ ([.outOfWindow, .oversize, .boundary, .unmapped] : List ViolationCause),
      headerFormed (refusedHead c) ∧ (readOnly.slot 0).endsFrame (writeOf (refusedHead c)) (refusedHead c) ∧
      writeFormed (writeOf (refusedHead c)) (refusedHead c)) ∧
    (readOnly.slot 0).refuses .read (refusedHead .outOfWindow) .outOfWindow ∧
    (readOnly.slot 0).refuses .read (refusedHead .oversize) .oversize ∧
    (readOnly.slot 0).refuses .read (refusedHead .boundary) .boundary ∧
    (readOnly.slot 0).refuses .read (refusedHead .unmapped) .unmapped := by
  unfold headerFormed Slot.endsFrame writeFormed headerFormed Slot.refuses Slot.withinPage
  decide +kernel

theorem hyps_refused_readOnly :
    (readOnly.slot 0).endsFrame (writeOf (refusedHead .readOnly)) (refusedHead .readOnly) ∧
    writeFormed (writeOf (refusedHead .readOnly)) (refusedHead .readOnly) ∧
    (readOnly.slot 0).refuses .write (refusedHead .readOnly) .readOnly := by
  have w : (readOnly.slot 0).withinPage (refusedHead .readOnly) := by unfold Slot.withinPage; decide +kernel
  refine ⟨?_, ?_, rfl, w, ⟨0, 1, false⟩, by decide +kernel⟩
  · unfold Slot.endsFrame; decide +kernel
  · unfold writeFormed headerFormed; decide +kernel

theorem hyps_RefusedFramesAreAnsweredAndCounted_each_case :
    ((fenced.slot 0).linkEn = true ∧ (fenced.slot 0).linkUp = true ∧ (fenced.slot 0).intake = .fence ∧
      (fenced.slot 0).placesOpen ≠ 0 ∧ (fenced.slot 0).tags.get 0 = false ∧ headerFormed lastBeats ∧
      (fenced.slot 0).endsFrame lastWrite lastBeats ∧ writeFormed lastWrite lastBeats) ∧
    (¬ headerFormed ⟨0, 0⟩ ∧ ¬ headerFormed ⟨0, 33⟩ ∧ ¬ headerFormed ⟨4, 1⟩ ∧
      ((withSlot { linked .live .translated with tags := Vector.replicate 16 true }).slot 0).tags.get 15 = true) ∧
    ((onePlace.slot 0).endsFrame ⟨true, lastBeats, []⟩ lastBeats ∧ ¬ writeFormed ⟨true, lastBeats, []⟩ lastBeats ∧
      ¬ writeFormed ⟨false, lastBeats, []⟩ lastBeats) ∧
    (∀ mode ∈ ([.probe, .translated, .fence] : List Intake),
      ((withSlot { linked .live mode with placesOpen := 0 }).slot 0).intake = mode ∧
      ((withSlot { linked .live mode with placesOpen := 0 }).slot 0).placesOpen = 0 ∧
      ((withSlot { linked .live mode with placesOpen := 0 }).slot 0).partly = none ∧
      ((withSlot { linked .live mode with placesOpen := 0 }).slot 0).broken = false ∧
      ((withSlot { linked .live mode with placesOpen := 0, broken := true }).slot 0).broken = true) := by
  unfold headerFormed Slot.endsFrame writeFormed headerFormed
  decide +kernel

theorem hyps_FrameStartUsesAPlace_each_case :
    (∀ p ∈ ([(.probing, .probe), (.live, .translated), (.retiring, .fence)] : List (SlotState × Intake)),
      ((withSlot (linked p.1 p.2)).slot 0).intake = p.2 ∧ ((withSlot (linked p.1 p.2)).slot 0).linkUp = true ∧
      ((withSlot (linked p.1 p.2)).slot 0).linkEn = true ∧ ((withSlot (linked p.1 p.2)).slot 0).partly = none ∧
      ((withSlot (linked p.1 p.2)).slot 0).broken = false ∧ ((withSlot (linked p.1 p.2)).slot 0).placesOpen ≠ 0) ∧
    ((withSlot { linked .live .translated with placesOpen := 0 }).slot 0).placesOpen = 0 := by decide +kernel

/-- A probe candidate. -/
def candidate : WriteFrame := ⟨true, ⟨0, 1⟩, [⟨0xFF, 0⟩]⟩

theorem hyps_ProbeCandidatesAreCompared_each_case :
    (∀ k ∈ ([0, 1, 2] : List Nat), ((withSlot { probing with progress := k }).slot 0).progress = k ∧
      ((withSlot { probing with progress := k }).slot 0).intake = .probe ∧
      ((withSlot { probing with progress := k }).slot 0).outcome = none ∧
      ((withSlot { probing with progress := k }).slot 0).linkEn = true ∧
      ((withSlot { probing with progress := k }).slot 0).linkUp = true ∧
      ((withSlot { probing with progress := k }).slot 0).endsFrame candidate ⟨0, 1⟩) ∧
    ((withSlot { probing with partly := some ⟨0, 1⟩, placesOpen := 0 }).slot 0).endsFrame candidate ⟨0, 1⟩ ∧
    (((withSlot probing).slot 0).placesOpen ≠ 0 ∧ ((withSlot probing).slot 0).partly = none) ∧
    ((withSlot probing).slot 0).endsFrame { candidate with parsed := false } ⟨0, 1⟩ ∧
    (¬ ({ candidate with parsed := false } : WriteFrame).parsed = true ∧ (⟨8, 1⟩ : FrameHeader).addr ≠ 0 ∧
      (⟨0, 2⟩ : FrameHeader).beats ≠ 1) := by
  unfold Slot.endsFrame
  decide +kernel

theorem hyps_KeyAcceptedSettles :
    ∀ c ∈ ([1, 16] : List Nat),
      ((withSlot { probing with outcome := some .keyAccepted, cfgCredit := c }).slot 0).cfgCredit = c ∧
      ((withSlot { probing with outcome := some .keyAccepted, cfgCredit := c }).slot 0).state = .probing ∧
      ((withSlot { probing with outcome := some .keyAccepted, cfgCredit := c }).slot 0).outcome = some .keyAccepted ∧
      ((withSlot { probing with outcome := some .keyAccepted, cfgCredit := c }).slot 0).linkUp = true ∧
      ((withSlot { probing with outcome := some .keyAccepted, cfgCredit := c }).slot 0).ingress = [] ∧
      ((withSlot { probing with outcome := some .keyAccepted, cfgCredit := c }).slot 0).partly = none := by
  decide +kernel

/-- The part with its rings at 0x100000 and its status block behind them. -/
def placed : State :=
  { base with ring := { base.ring with reqBase := 0x100000, respBase := 0x101000, statusBase := 0x102000 } }

/-- A control write of one beat with one byte enabled. -/
def ownerWrite (addr : Addr) (v : Beat) : ControlReq := ⟨5, .write, addr, 1, [⟨0x80, v⟩]⟩

/-- A write of the attach marker over the attach page. -/
def markerWrite : ControlReq := ⟨5, .write, 0, 1, [⟨0xFF, 0x412D54454A534152⟩]⟩

/-- One item at the head of the control queue, with `k` requests behind it. -/
def controlHead (i : ControlItem) (k : Nat) (s : State) : State :=
  { s with ctl := { ControlPort.reset with queue := i :: List.replicate k (.request markerWrite) } }

/-- One request at the head of the ring request queue. -/
def ringHead (op : RingOp) : State := { placed with ring := { placed.ring with queue := [op] } }

/-- The part DETACHED, with the same control queue. -/
def detached (s : State) : State := { s with ring := { s.ring with state := .detached } }

/-- A pass in extent 1 with `k` writes granted. -/
def scrubbing (k : Nat) : State := { base with scrub := ⟨some 1, k, 0, 0, 0, 0⟩ }

/-- Who is granted in a state. -/
def granted (s : State) : Option Participant := (circleFrom s.trk.pointer).find? s.eligible

theorem hyps_GrantTakesTheHead_each_participant :
    (withSlot (busy .live .translated)).lowestFree 0 ∧ (base.setEntry 0 (readEntry .orphan)).lowestFree 1 ∧
    (∀ i ∈ [aWrite, aRead], (withSlot { linked .live .translated with ingress := [i] }).grantsNext (.slot 0) ∧
      ((withSlot { linked .live .translated with ingress := [i] }).slot 0).ingress = i :: []) ∧
    (∀ i ∈ ([.request (ownerWrite 0x100018 0), .trailing .attachRecord, .trailing (.ringEntry 7)] : List ControlItem),
      (controlHead i 0 placed).grantsNext .control ∧ (controlHead i 15 (detached placed)).grantsNext .control) ∧
    (∀ op ∈ ([.fetch 7, .taken 0, .response 255 (.event (.held 0 4)), .status .header, .status (.slot 13),
        .status (.extentMap 63), .attachResult .ok 0] : List RingOp), (ringHead op).grantsNext .ring) ∧
    (∀ k ∈ ([0, 255] : List Nat), (scrubbing k).grantsNext .scrub ∧ (scrubbing k).scrub.current = some 1) := by
  refine ⟨State.lowestFree_of_freeTag (by decide +kernel), State.lowestFree_of_freeTag (by decide +kernel), fun i hi => ?_,
    fun i hi => ?_, fun op ho => State.grantsNext_of_find (by revert op; decide +kernel), fun k hk => ?_⟩
  · exact ⟨State.grantsNext_of_find (by revert i; decide +kernel), by revert i; decide +kernel⟩
  · exact ⟨State.grantsNext_of_find (by revert i; decide +kernel),
      State.grantsNext_of_find (by revert i; decide +kernel)⟩
  · exact ⟨State.grantsNext_of_find (by revert k; decide +kernel), by revert k; decide +kernel⟩

/-- The part with every tracker entry ORPHAN. -/
def noEntry : State := { base with trk := { base.trk with entries := Vector.replicate 64 (readEntry .orphan) } }

/-- `k` tracker entries like one. -/
def entriesUsed (k : Nat) (e : Entry) (s : State) : State :=
  (List.range k).foldl (fun s i => s.setEntry (Fin.ofNat 64 i) e) s

theorem hyps_GrantTakesTheHead_at_the_caps :
    (entriesUsed 1 (readEntry .late) (withSlot { busy .live .translated with effCredit := 2 })).grantsNext (.slot 0) ∧
    (entriesUsed 15 { readEntry .issued with who := .control } (controlHead (.trailing .attachRecord) 0 placed)).grantsNext
      .control ∧
    (entriesUsed 1 { readEntry .issued with who := .ring } (ringHead (.taken 0))).grantsNext .ring ∧
    (entriesUsed 1 { readEntry .issued with who := .scrub }
      { scrubbing 1 with now := 9, trk := { base.trk with lastScrub := some 4, pace := 5 } }).grantsNext .scrub := by
  refine ⟨?_, ?_, ?_, ?_⟩ <;> exact State.grantsNext_of_find (by decide +kernel)

theorem hyps_NoGrantWithoutAFreeEntry_each_case :
    (∀ k, (noEntry.entry k).state ≠ .free) ∧ ∀ p, ¬ base.mayGo p := by
  refine ⟨by decide +kernel, fun p h => ?_⟩
  have e := (base.eligible_iff p).2 h
  have hn : ∀ n, base.eligible (.slot n) ≠ true := by decide +kernel
  cases p with
  | slot n => exact hn n e
  | control | ring | scrub => exact absurd e (by decide +kernel)

/-- A control request to extent 1, which is DIRTY, at the head of the queue. -/
def blockedWrite : State :=
  { base.setExtent 1 Extent.dirty with
    ctl := { ControlPort.reset with queue := [.request ⟨5, .write, 65536, 1, [⟨0xFF, 1⟩]⟩] } }

theorem hyps_GrantTakesTheHead_control_passes :
    (∀ x ∈ touchedExtents placed.ext.base placed.ext.count 0x100018 1,
      (placed.extent x).state ∈ ([.owned, .shared] : List ExtentState)) ∧
    (∀ x ∈ touchedExtents base.ext.base base.ext.count 65536 1, (base.extent x).state = .free) ∧
    1 ∈ touchedExtents base.ext.base base.ext.count 65536 1 := by decide +kernel

theorem hyps_GrantTakesTheHead_fetches_the_ring_entry :
    coversWith (ownerWrite 0x100018 0x0100000000000000) (placed.ring.reqBase.toNat + 32 * placed.ring.consumer + 31) 1 :=
  ⟨rfl, 0, 7, ⟨0x80, 0x0100000000000000⟩, by decide, by decide, by decide +kernel, rfl, by decide, by decide⟩

theorem hyps_GrantTakesTheHead_hands_back :
    coversWith (ownerWrite 0x1010F8 0) (placed.ring.respBase.toNat + 32 * 7 + 31) 0 ∧ 7 < placed.ring.respSize :=
  ⟨⟨rfl, 0, 7, ⟨0x80, 0⟩, by decide, by decide, by decide +kernel, rfl, by decide, by decide⟩, by decide⟩

theorem hyps_GrantTakesTheHead_fetches_the_attach_record :
    ∀ i : Fin 8, coversWith markerWrite (base.attachSel.toNat * 4096 + i.val)
      (([0x52, 0x41, 0x53, 0x4A, 0x45, 0x54, 0x2D, 0x41] : List Byte)[i.val]) := by
  intro i
  refine ⟨rfl, 0, i.val, ⟨0xFF, 0x412D54454A534152⟩, by decide, i.isLt, ?_, rfl, ?_, ?_⟩
  all_goals revert i; decide +kernel

theorem hyps_GrantTakesTheHead_covers_neither :
    ¬ coversWith (ownerWrite 0x100018 0) (placed.ring.reqBase.toNat + 32 * placed.ring.consumer + 31) 1 ∧
    ¬ coversWith (ownerWrite 0x100018 0) (base.attachSel.toNat * 4096 + (0 : Fin 8).val) 0x52 := by
  constructor
  · rw [← controlCovers_iff]; decide +kernel
  · rw [← controlCovers_iff]; decide +kernel

/-- A control request to extent 1 at the head of the queue, the extent in a state. -/
def blockedBy (st : ExtentState) (kind : AccessKind) : State :=
  controlHead (.request ⟨5, kind, 65536, 1, []⟩) 0 (base.setExtent 1 { Extent.free with state := st })

theorem hyps_BlockedControlRequestsAreFilled_each_case :
    ∀ p ∈ ([(.free, .write), (.dirty, .write), (.scrubbing, .read), (.bad, .read)] : List (ExtentState × AccessKind)),
      ((blockedBy p.1 p.2).lowestFree 0 ∧ (blockedBy p.1 p.2).grantsNext .control) ∧
      (blockedBy p.1 p.2).ctl.queue = .request ⟨5, p.2, 65536, 1, []⟩ :: [] ∧ (blockedBy p.1 p.2).ctl.heldBack = [] ∧
      (blockedBy p.1 p.2).ring.state = .attached ∧
      1 ∈ touchedExtents (blockedBy p.1 p.2).ext.base (blockedBy p.1 p.2).ext.count 65536 1 ∧
      ((blockedBy p.1 p.2).extent 1).state = p.1 := by
  refine fun p hp => ⟨⟨State.lowestFree_of_freeTag ?_, State.grantsNext_of_find ?_⟩, ?_⟩
  all_goals revert p; decide +kernel

theorem hyps_SlotReadCompletions_each_case :
    (∀ sl ∈ [linked .live .translated, linked .retiring .fence, graced, { linked .live .translated with incarnation := 5 },
        powered .vacating],
      (((withSlot sl).setEntry 63 (readEntry .issued)).entry 63) = readEntry .issued ∧
      (((withSlot sl).setEntry 63 (readEntry .issued)).slot 0).state = sl.state ∧
      (((withSlot sl).setEntry 63 (readEntry .issued)).slot 0).incarnation = sl.incarnation) ∧
    (∀ tag ∈ ([.control 31, .trailing .attachRecord, .trailing (.ringEntry 0)] : List RequesterTag),
      ((base.setEntry 0 { readEntry .issued with who := .control, tag := tag }).entry 0).tag = tag) ∧
    ((base.setEntry 0 { readEntry .issued with who := .ring, tag := .ring (.fetch 0) }).entry 0).who = .ring ∧
    (base.ring.state = .attached ∧ 0 = base.ring.consumer ∧ ownerByte [0, 0, 0, 0x0100000000000000] = 1 ∧
      base.ring.held = none) := by decide +kernel

/-- A fetched attach record that passes every check: rings of 8 entries, one extent, every limit at its least. -/
def attachData : List Beat :=
  [0x412D54454A534152, 0x0008000000001000, 0x0008000000002000, 0x3000, 0x0001000000010000, 0x0001010101010000,
    0x0001000100010000, 0, 0, 0, 0, 0, 0, 0, 0, 0]

/-- The part DETACHED with the fetch of the attach record in flight. -/
def fetchingAttach : State := State.reset.setEntry 0 { readEntry .issued with who := .control, tag := .trailing .attachRecord }

theorem hyps_SlotReadCompletions_attach :
    (fetchingAttach.entry 0).state = .issued ∧ (fetchingAttach.entry 0).who = .control ∧
    (fetchingAttach.entry 0).tag = .trailing .attachRecord ∧ fetchingAttach.ring.state = .detached ∧
    hasMarker attachData = true ∧ hasMarker [] = false ∧ fetchingAttach.ring.queue = [] ∧
    fetchingAttach.ring.waiting = [] ∧ fetchingAttach.ring.pend = [] ∧ fetchingAttach.ring.reserved = 0 ∧
    (∀ c ∈ (AttachRecord.parse attachData).checks (fetchingAttach.attachSel.toNat * 4096), c.2) ∧
    (∀ j, j ≠ 0 → ¬ (fetchingAttach.entry j).busyFor (AttachRecord.parse attachData)) ∧
    ((fetchingAttach.setEntry 63 (writeEntry .orphan)).entry 63).busyFor (AttachRecord.parse attachData) := by
  refine ⟨rfl, rfl, rfl, rfl, by decide +kernel, by decide +kernel, rfl, rfl, rfl, rfl, ?_, ?_, ?_, ?_⟩
  · simp only [AttachRecord.checks, List.forall_mem_cons, List.not_mem_nil, false_implies, implies_true, and_true]
    decide +kernel
  · rintro j hj ⟨h, -⟩
    revert j
    decide +kernel
  · decide +kernel
  · exact .inl (by decide +kernel)

theorem hyps_SlotReadCompletions_attach_fails :
    (∃ f, firstFails ((AttachRecord.parse (attachData.set 1 0)).checks 0) f) ∧
    ∃ f, firstFails ((AttachRecord.parse (attachData.set 6 0x0000000100010000)).checks 0) f := by
  constructor
  · exact ⟨2, [], _, _, rfl, by simp, by decide +kernel⟩
  · refine ⟨19, (((AttachRecord.parse (attachData.set 6 0x0000000100010000)).checks 0).take 16), _, [], rfl, ?_, ?_⟩
    · simp only [AttachRecord.checks, List.take, List.forall_mem_cons, List.not_mem_nil, false_implies, implies_true,
        and_true]
      decide +kernel
    · decide +kernel

theorem hyps_StrayCompletionsAreDiscarded_each_case :
    (base.entry 0).state = .free ∧ ((base.setEntry 0 (readEntry .waiting)).entry 0).state = .waiting := by decide +kernel

/-- An entry of RING for a response write. -/
def responseEntry (st : EntryState) (last : Bool) : Entry :=
  ⟨st, .ring, 0, .write, .ring (.response 255 last), 8, 4, 50, .none⟩

theorem hyps_LateAndFailedCompletions_each_case :
    (∀ e ∈ [readEntry .late, { readEntry .late with held := .timeout }, writeEntry .late, writeEntry .issued,
        writeEntry .orphan, { writeEntry .late with who := .control }, { writeEntry .orphan with who := .control },
        { writeEntry .issued with who := .scrub }, { writeEntry .late with who := .scrub }],
      (base.setEntry 63 e).entry 63 = e) ∧
    base.ring.state = .attached ∧
    (∀ st ∈ ([.issued, .late, .orphan] : List EntryState),
      ((placed.setEntry 0 (responseEntry st false)).entry 0).who = .ring ∧
      ((placed.setEntry 0 (responseEntry st false)).entry 0).state = st ∧
      ((placed.setEntry 0 (responseEntry st false)).entry 0).incarnation = 0 ∧
      ((placed.setEntry 0 (responseEntry st false)).entry 0).tag = .ring (.response (255 : Fin 256).val false)) ∧
    (∀ r ∈ ([.taken, .attachResult, .status .header] : List RingRef),
      ((base.setEntry 0 { responseEntry .issued false with tag := .ring r }).entry 0).tag = .ring r) := by
  decide +kernel

theorem hyps_DeadlineAnswersTimeout_each_case :
    (base.entry 0).state ≠ .issued ∧
    (∀ sl ∈ [linked .live .translated, linked .retiring .fence, graced, powered .vacating],
      ((withSlot sl).setEntry 63 (readEntry .issued)).entry 63 = readEntry .issued ∧
      ((withSlot sl).setEntry 63 (writeEntry .issued)).entry 63 = writeEntry .issued ∧
      (((withSlot sl).setEntry 63 (readEntry .issued)).slot 0).state = sl.state ∧
      (((withSlot sl).setEntry 63 (readEntry .issued)).slot 0).linkEn = sl.linkEn) ∧
    (∀ tag ∈ ([.control 31, .trailing .attachRecord, .trailing (.ringEntry 0)] : List RequesterTag),
      ((base.setEntry 0 { readEntry .issued with who := .control, tag := tag }).entry 0).who = .control ∧
      ((base.setEntry 0 { readEntry .issued with who := .control, tag := tag }).entry 0).tag = tag) ∧
    (∀ r ∈ ([.taken, .attachResult, .status (.extentMap 63), .fetch 255, .response 255 true] : List RingRef),
      ((base.setEntry 0 { responseEntry .issued false with tag := .ring r }).entry 0).who = .ring ∧
      ((base.setEntry 0 { responseEntry .issued false with tag := .ring r }).entry 0).tag = .ring r) ∧
    ((base.setEntry 0 { writeEntry .issued with who := .scrub }).entry 0).who = .scrub := by decide +kernel

theorem hyps_ControlRequestsAreQueued : base.ctl.heldBack = [] := rfl

/-- A request job of slot 1 that waits for the acknowledgement from the moment 18 on. -/
def atAck (now : Nat) (expired : Bool) : State :=
  let s := running (.request 0 false 9 0 7) .ackWait { withSlot (powered .pending) with now := now }
  { s with sb := { s.sb with timeout := 2, expired := expired } }

/-- The job of slot 1 in COMMAND or WRITE_DATA, at a moment of it. -/
def sending (p : Phase) (ends now : Nat) : State :=
  let s := running (.request 0 true 9 0x8001 7) p { withSlot (powered .pending) with now := now }
  { s with sb := { s.sb with phaseEnds := ends } }

/-- Slot 2 powered too. -/
def withSecond (s : State) : State := { s with slots := s.slots.set 1 (powered .pending) }

theorem hyps_AcknowledgementStopsTheTimeout_each_case :
    ((withSlot (powered .pending)).slot 1).pwrEn = false ∧
    (∀ now ∈ ([18, 20, 21] : List Nat), ((atAck now false).slot 0).pwrEn = true ∧
      (atAck now false).sb.running = some (.request 0 false 9 0 7) ∧ (atAck now false).sb.phase = .ackWait ∧
      ((atAck now false).sb.started + (atAck now false).sb.timeout * 10 < (atAck now false).now ↔ now = 21)) ∧
    ((atAck 18 true).sb.expired = true ∧ (atAck 18 true).sb.phase = .ackWait) ∧
    ((running (.request 0 true 9 0 7) .ackWait (withSlot (powered .pending))).sb.running =
      some (.request 0 true 9 0 7)) ∧
    (((withSecond (atAck 18 false)).slot 1).pwrEn = true ∧
      ∀ j, (withSecond (atAck 18 false)).sb.running = some j → j.slot ≠ 1) ∧
    (((withSlot (powered .pending)).slot 0).pwrEn = true ∧ (withSlot (powered .pending)).sb.phase = .idle) ∧
    (∀ p ∈ ([.lineCheck, .command, .writeData, .ackWait, .readData, .stop] : List Phase),
      (sending p 20 19).sb.phase = p ∧ (sending p 20 19).now < (sending p 20 19).sb.phaseEnds ∧
      ¬ (sending p 20 20).now < (sending p 20 20).sb.phaseEnds) ∧
    (∀ i : Fin 9, (sending .command 18 (2 * i.val)).sb.phaseEnds + 2 * i.val ≤
        (sending .command 18 (2 * i.val)).now + 18 ∧
      (sending .command 18 (2 * i.val + 1)).now + 18 < (sending .command 18 (2 * i.val + 1)).sb.phaseEnds + 2 * i.val + 2) ∧
    (∀ i : Fin 16, (sending .writeData 50 (18 + 2 * i.val)).sb.phaseEnds + 2 * i.val ≤
        (sending .writeData 50 (18 + 2 * i.val)).now + 32 ∧
      (sending .writeData 50 (19 + 2 * i.val)).now + 32 <
        (sending .writeData 50 (19 + 2 * i.val)).sb.phaseEnds + 2 * i.val + 2) := by
  refine ⟨by decide +kernel, by decide +kernel, by decide +kernel, by decide +kernel, ⟨by decide +kernel, ?_⟩,
    by decide +kernel, by decide +kernel, by decide +kernel, by decide +kernel⟩
  rintro j h
  cases h
  decide

/-- Eight words that pass the check: word 2 is 2, and the words sum to 0. -/
def sevenWords : List Half := [0, 0, 2, 0, 0, 0, 0]

theorem test_command_bits : (List.range 9).map (fun i => (sending .command 18 (2 * i)).sbdat 0) =
    [.startMark, .bit true, .bit false, .bit false, .bit false, .bit true, .bit false, .bit false, .bit true] := by
  decide +kernel

/-- The running access has failed, and its stop mark ends at 18. -/
def failing (j : Job) (st : SlotState) (now : Nat) : State :=
  let s := running j .stop { withSlot (powered st) with now := now }
  { s with sb := { s.sb with failed := true } }

theorem hyps_AccessEndAnswersOrIdentifies_each_case :
    (∀ p ∈ ([.readData, .stop] : List Phase),
      (running (.request 0 true 9 5 7) p (withSlot (powered .pending))).sb.phase = p ∧
      (running (.request 0 true 9 5 7) p (withSlot (powered .pending))).sb.failed = false ∧
      (running (.request 0 true 9 5 7) p (withSlot (powered .pending))).sb.running = some (.request 0 true 9 5 7)) ∧
    (∀ ws ∈ ([[], [0, 0, 2, 0, 0, 0]] : List (List Half)), ws.length < 7 ∧
      (running (.identity 0 ws) .readData (withSlot (powered .identifying))).sb.running = some (.identity 0 ws)) ∧
    ((running (.identity 0 sevenWords) .readData (withSlot (powered .identifying))).sb.running =
        some (.identity 0 [0, 0, 2, 0, 0, 0, 0]) ∧
      ((running (.identity 0 sevenWords) .readData (withSlot (powered .identifying))).slot 0).state = .identifying) ∧
    ((0 : Half) + 0 + 1 + 0 + 0 + 0 + 0 + 0xFFFF = 0 ∧ (0 : Half) + 0 + 16 + 0 + 0 + 0 + 0 + 0xFFF0 = 0 ∧
      (0 : Half) + 0 + 17 + 0 + 0 + 0 + 0 + 0xFFEF = 0 ∧ (0 : Half) + 0 + 16 + 0 + 0 + 0 + 0 + 0 ≠ 0) ∧
    ((failing (.request 0 false 9 0 7) .pending 17).sb.failed = true ∧
      (failing (.request 0 false 9 0 7) .pending 17).sb.phase = .stop ∧
      (failing (.request 0 false 9 0 7) .pending 17).sb.running = some (.request 0 false 9 0 7) ∧
      (failing (.identity 0 [1]) .identifying 17).sb.running = some (.identity 0 [1]) ∧
      ((failing (.identity 0 [1]) .identifying 17).slot 0).state = .identifying) := by decide +kernel

theorem hyps_RequestIsTaken_each_case :
    ∀ k ∈ ([0, 13, 12, 1] : List Byte),
      ({ base with ring := { base.ring with held := some (ask k 0 0 0 0 0 0) } } : State).ring.held =
        some (ask k 0 0 0 0 0 0) ∧
      base.ring.state = .attached ∧ base.ring.exec = none ∧ base.ring.pend.length + base.ring.reserved < 32 ∧
      base.ring.waiting = [] ∧ base.ring.queue.length ≤ 14 := by decide +kernel

theorem hyps_request_in_execution (k : Byte) (s : State) :
    (asking (ask k 0 0 0 0 0 0) s).executing (ask k 0 0 0 0 0 0) k.toNat ∧ (ask k 0 0 0 0 0 0).names 0 :=
  ⟨⟨rfl, rfl⟩, rfl⟩

theorem hyps_RequestsAreRefusedByState_each_case :
    (∀ st ∈ ([.pending, .held, .live, .retired, .faulted] : List SlotState), (base.slot 0).state ≠ st) ∧
    ((withSlot (powered .vacating)).slot 0).state = .vacating ∧
    (((withSlot { linked .retiring .none with pwrEn := false }).slot 0).state = .retiring ∧
      ((withSlot { linked .retiring .none with pwrEn := false }).slot 0).pwrEn = false) := by decide +kernel

/-- A PENDING slot whose blade asks for a credit of at most 16. -/
def askable : State := withSlot { powered .pending with identity := Vector.replicate 8 16 }

theorem hyps_AdmitOpensTheProbe_each_case :
    (askable.slot 0).state = .pending ∧ (ask 1 0 1 0 0 0 0).p4.toNat = 0 ∧ 16 < (ask 1 17 1 0 0 0 0).p4.toNat ∧
    (ask 1 16 0 0 0 0 0).p5.toNat = 0 ∧ 32 < (ask 1 16 33 0 0 0 0).p5.toNat ∧
    ((withSlot (powered .pending)).slot 0).identity[2].toNat < (ask 1 1 32 0 0 0 0).p4.toNat ∧
    (ask 1 16 32 0 0 0 0).p4.toNat ≤ (askable.slot 0).identity[2].toNat := by decide +kernel

theorem hyps_StageWritesOneEntry_each_case :
    (base.slot 0).state ≠ .vacating ∧ 32 ≤ (ask 2 32 1 0 1 0 0).p4.toNat ∧
    ((ask 2 31 3 0 1 0 0).p4.toNat < 32 ∧ (ask 2 31 3 0 1 0 0).p5.toNat ≠ 1 ∧ (ask 2 31 3 0 1 0 0).p5.toNat ≠ 2) ∧
    32 ≤ (ask 2 31 1 32 1 0 0).p6.toNat ∧ ((ask 2 31 1 31 3 0 0).p7.toNat ≠ 1 ∧ (ask 2 31 1 31 3 0 0).p7.toNat ≠ 2) ∧
    (ask 2 31 2 0 0 0 0).p5.toNat = 2 ∧ ((ask 2 31 1 31 2 1 0).p6.toNat < 32 ∧ (ask 2 31 1 31 2 1 0).p7.toNat = 2) := by
  decide +kernel

/-- A slot that stages extent `x` on page 3 over a map of extent 1. -/
def staging (st : SlotState) (x : Nat) : State :=
  withSlot { linked st .closed with staging := (Vector.replicate 32 none).set 31 (some ⟨3, x, true⟩) }

/-- A slot whose staging set names an extent as RW at the last two indexes, over a map of extent 1. -/
def stagingTwice (st : SlotState) (x : Nat) : State :=
  withSlot { linked st .closed with
    staging := ((Vector.replicate 32 none).set 30 (some ⟨3, x, true⟩)).set 31 (some ⟨4, x, true⟩) }

/-- The examination of a COMMIT, run on a state. -/
def examined (s : State) : Option (Nat × Nat × Option ExtentState) :=
  s.commitFirst 0 [] (indexedEntries (s.slot 0).staging)

theorem hyps_CommitInstallsTheStagingSet_each_case :
    (((staging .pending 2).slot 0).state = .pending ∧ (staging .pending 2).commitFailsFirst 0 31 1) ∧
    (stagingTwice .held 0).commitFailsFirst 0 31 3 ∧
    (((staging .held 0).setExtent 0 Extent.dirty).commitFailsFirst 0 31 4 ∧
      (((staging .held 0).setExtent 0 Extent.dirty).slot 0).staging[31]? = some (some ⟨3, 0, true⟩)) ∧
    (((staging .held 0).slot 0).state = .held ∧ ∀ i c, ¬ (staging .held 0).commitFails 0 i c) := by
  refine ⟨⟨by decide +kernel, ?_⟩, ?_, ⟨?_, by decide +kernel⟩, by decide +kernel, ?_⟩
  · exact ((State.commitFirst_spec (staging .pending 2) 0).2 31 1 none (by decide +kernel)).1
  · exact ((State.commitFirst_spec (stagingTwice .held 0) 0).2 31 3 none (by decide +kernel)).1
  · exact ((State.commitFirst_spec ((staging .held 0).setExtent 0 Extent.dirty) 0).2 31 4 (some .dirty)
      (by decide +kernel)).1
  · exact (State.commitFirst_spec (staging .held 0) 0).1 (by decide +kernel)

theorem hyps_CommitInstallsTheStagingSet_extents :
    ((staging .held 0).extent 0).state = .free ∧
    (mapEntries ((staging .held 0).slot 0).staging).countP (fun e => e.extent == 0) = 1 ∧
    (mapEntries ((staging .held 0).slot 0).map).countP (fun e => e.extent == 1) = 1 ∧
    (((staging .held 0).setExtent 1 ⟨.owned, some 0, 0, false⟩).extent 1).owner = some 0 ∧
    (((staging .held 0).setExtent 1 ⟨.shared, none, 1, true⟩).extent 1).refs = 1 ∧
    (((staging .held 0).setExtent 1 ⟨.shared, none, 14, false⟩).extent 1).refs = 14 := by decide +kernel

theorem hyps_HoldClosesIntake_each_case :
    (((withSlot (busy .live .translated)).slot 0).state = .live ∧
      ((withSlot (busy .live .translated)).slot 0).ingress ≠ []) ∧
    (((writeInFlight .live .translated).slot 0).ingress = [] ∧ (writeInFlight .live .translated).inFlight (.slot 0) ≠ 0) ∧
    (((withSlot (linked .live .translated)).slot 0).ingress = [] ∧
      (withSlot (linked .live .translated)).inFlight (.slot 0) = 0) := by decide +kernel

theorem hyps_ResumeReopensIntake_each_case :
    (((withSlot (linked .held .closed)).slot 0).state = .held ∧ ((withSlot (linked .held .closed)).slot 0).linkUp = true ∧
      ((withSlot (linked .held .closed)).slot 0).heldBack = []) ∧
    (((withSlot (holdingBack (linked .held .closed))).slot 0).linkEn = true ∧
      ((withSlot (holdingBack (linked .held .closed))).slot 0).linkUp = true ∧
      ((withSlot (holdingBack (linked .held .closed))).slot 0).heldBack ≠ []) := by decide +kernel

theorem hyps_RetireEndsOrFences_each_case :
    (∀ st ∈ ([.powering, .identifying, .pending, .probing] : List SlotState),
      ((withSlot (powered st)).slot 0).state = st) ∧
    (∀ st ∈ ([.settling, .live, .holding, .held] : List SlotState),
      ((withSlot (holdingBack (busy st .closed))).slot 0).state = st ∧
      ((withSlot (holdingBack (busy st .closed))).slot 0).ingress ≠ [] ∧
      ((withSlot (holdingBack (busy st .closed))).slot 0).linkEn = true ∧
      ((withSlot (holdingBack (busy st .closed))).slot 0).linkUp = true ∧
      (writeInFlight st .translated).inFlight (.slot 0) ≠ 0 ∧ ((withSlot (linked st .translated)).slot 0).ingress = [] ∧
      (withSlot (linked st .translated)).inFlight (.slot 0) = 0) ∧
    ((withSlot graced).slot 0).state = .grace := by decide +kernel

theorem hyps_RestartPowers_each_case :
    ∀ st ∈ ([.retired, .faulted] : List SlotState), ∀ up ∈ [false, true],
      ((withSlot { powered st with pwrGood := up }).slot 0).state = st ∧
      ((withSlot { powered st with pwrGood := up }).slot 0).pwrGood = up ∧
      (withSlot { powered st with pwrGood := up }).sb.waiting.Pairwise (· < ·) := by decide +kernel

theorem hyps_PublishAndWithdraw_each_case :
    base.ext.count ≤ 2048 ∧ base.ext.count ≤ (ask 8 2 0 0 0 0 0).p4.toNat ∧ 1 < base.ext.count ∧
    (base.extent 1).state = .free ∧ ((base.setExtent 1 Extent.dirty).extent 1).state ≠ .free ∧
    ((base.setExtent 1 ⟨.shared, none, 14, true⟩).extent 1).withdrawn = true ∧
    ((base.setExtent 1 ⟨.shared, none, 14, false⟩).extent 1).state = .shared ∧
    ((base.setExtent 1 ⟨.shared, none, 14, false⟩).extent 1).withdrawn = false := by decide +kernel

theorem hyps_SidebandTimeoutFailsTheAccess_at_its_expiry :
    (∀ p ∈ ([.idle, .readData, .stop] : List Phase), (running (.identity 0 []) p base).sb.phase = p) ∧
    (atAck 18 true).sb.expired = true ∧
    (∀ p ∈ ([.lineCheck, .command, .writeData, .ackWait] : List Phase),
      (running (.request 0 true 9 5 7) p { withSlot (powered .pending) with now := 10 }).sb.expired = false ∧
      (((running (.request 0 true 9 5 7) p { withSlot (powered .pending) with now := 10 }).reach 10).sb.phase = p) ∧
      (running (.request 0 true 9 5 7) p { withSlot (powered .pending) with now := 10 }).sb.started +
        (running (.request 0 true 9 5 7) p { withSlot (powered .pending) with now := 10 }).sb.timeout * 10 = 10) ∧
    ((running (.identity 0 []) .lineCheck { withSlot (powered .identifying) with now := 10 }).sb.running =
        some (.identity 0 []) ∧
      (((running (.identity 0 []) .lineCheck { withSlot (powered .identifying) with now := 10 }).reach 10).slot 0).state =
        .identifying) ∧
    ((running (.request 0 true 9 5 7) .command (withSlot (powered .pending))).reach 10).sb.phase = .command := by
  decide +kernel

theorem hyps_SidebandTimeoutFailsTheAccess_each_microsecond :
    base.sb.phase = .idle ∧
    (∀ p ∈ ([.command, .writeData, .readData, .stop] : List Phase),
      (sending p 18 17).sb.phase = p ∧ (sending p 18 17).sb.failed = false ∧
      (sending p 18 17).sb.phaseEnds ≤ (sending p 18 17).now + 1 ∧
      ¬ (sending p 18 16).sb.phaseEnds ≤ (sending p 18 16).now + 1) ∧
    ((atAck 20 false).sb.started + (atAck 20 false).sb.timeout * 10 ≤ (atAck 20 false).now ∧
      ¬ ((atAck 19 false).sb.expired = true ∨
        (atAck 19 false).sb.started + (atAck 19 false).sb.timeout * 10 ≤ (atAck 19 false).now)) ∧
    (∀ now ∈ ([9, 10] : List Nat),
      (sending .lineCheck 18 now).sb.phase = .lineCheck ∧ (sending .lineCheck 18 now).sb.expired = false ∧
      ((sending .lineCheck 18 now).sb.started + (sending .lineCheck 18 now).sb.timeout * 10 ≤
        (sending .lineCheck 18 now).now ↔ now = 10)) ∧
    (sending .lineCheck 18 10).sb.timeout ≠ 0 ∧
    ((failing (.request 0 false 9 0 7) .pending 17).sb.phaseEnds ≤ (failing (.request 0 false 9 0 7) .pending 17).now + 1 ∧
      (failing (.request 0 false 9 0 7) .pending 16).now + 1 < (failing (.request 0 false 9 0 7) .pending 16).sb.phaseEnds ∧
      (failing (.identity 0 []) .identifying 17).sb.failed = true ∧
      ((failing (.identity 0 []) .identifying 17).slot 0).state = .identifying) := by decide +kernel

theorem hyps_SidebandRequestIsQueued_each_case :
    ((withSlot (powered .identifying)).slot 0).state = .identifying ∧
    (((withSlot (linked .retiring .fence)).slot 0).state = .retiring ∧
      ((withSlot (linked .retiring .fence)).slot 0).pwrEn = true) ∧
    ((ask 10 0 0 0 0 0 0).p4.toNat ≠ 1 ∧ (ask 10 0 0 0 0 0 0).p4.toNat ≠ 2) ∧ 31 < (ask 10 1 32 0 0 0 0).p5.toNat ∧
    ((ask 10 2 7 0 0 0 0).p4.toNat = 2 ∧ (ask 10 2 7 0 0 0 0).p5.toNat ≤ 7) ∧
    ((ask 10 2 8 0 0 0 0).p4.toNat = 2 ∧ 8 ≤ (ask 10 2 8 0 0 0 0).p5.toNat) ∧ (ask 10 1 31 0 0 0 0).p5.toNat ≤ 31 ∧
    (16 ≤ (queuedJobs 16 base).sb.queue.length ∧ (crowded base).sb.waiting ≠ []) ∧
    ((queuedJobs 15 base).sb.queue.length < 16 ∧ (queuedJobs 15 base).sb.waiting = [] ∧
      (queuedJobs 15 base).sb.running ≠ none) ∧
    (base.sb.running = none ∧ base.sb.queue.length < 16 ∧ base.sb.waiting = []) := by decide +kernel

/-- The write of response entry 7 with its mirror WRITING, the tracker's entry ISSUED or in another state. -/
def writingSeven (st : EntryState) : State :=
  { base with
    ring := { base.ring with mirror := base.ring.mirror.set 7 .writing }
    trk := { base.trk with
      entries := base.trk.entries.set 0 { responseEntry st false with tag := .ring (.response 7 false) } } }

theorem hyps_DetachEndsTheAttachment_each_case :
    ((withSlot probing).slot 0).state = .probing ∧
    (∀ n, ((withSlot (powered .pending)).slot n).state ∈
      ([.empty, .seating, .powering, .identifying, .pending, .retired, .faulted] : List SlotState)) ∧
    ((writingSeven .issued).ring.mirror.get 7 = .writing ∧ ((writingSeven .issued).entry 0).who = .ring ∧
      ((writingSeven .issued).entry 0).state = .issued ∧
      ((writingSeven .issued).entry 0).tag = .ring (.response (7 : Fin 256).val false)) ∧
    ((writingSeven .late).ring.mirror.get 7 = .writing ∧ ∀ k, ((writingSeven .late).entry k).state ≠ .issued) := by
  decide +kernel

theorem hyps_RecordsAreHandedOverAndWritten_each_case :
    (base.ring.state ≠ .detached ∧ base.ring.queue.length < 16 ∧ base.ring.waiting = [] ∧ base.ring.held = none) ∧
    (base.ring.stale = [] ∧ base.ring.producer = (0 : Fin 256).val ∧ base.ring.mirror.get 0 = .empty) ∧
    ({ base with ring := { base.ring with pend := [.event (.held 0 4)] } } : State).ring.pend =
      .event (.held 0 4) :: [] ∧
    ({ base with ring := { base.ring with stale := [.header] } } : State).ring.stale = .header :: [] ∧
    (∀ k ∈ ([0, 1] : List Nat),
      ({ base with ring := { base.ring with pend := List.replicate 31 (.event (.held 0 4)), reserved := k } } :
        State).ring.state = .attached ∧
      (({ base with ring := { base.ring with pend := List.replicate 31 (.event (.held 0 4)), reserved := k } } :
          State).ring.pend.length +
        ({ base with ring := { base.ring with pend := List.replicate 31 (.event (.held 0 4)), reserved := k } } :
          State).ring.reserved < 32 ↔ k = 0)) ∧
    State.reset.ring.state ≠ .attached := by decide +kernel

/-- Extent 1 at the head of the scrub queue. -/
def scrubQueued : State := { base with ext := { base.ext with queue := [1] } }

/-- The same, with an entry in extent 1. -/
def scrubBlocked : State := scrubQueued.setEntry 0 { writeEntry .orphan with addr := 65536 }

theorem hyps_RecordsAreLaidOut_each_case :
    base.ext.count ≤ 2048 ∧ 255 < 256 ∧ 32 * (0 : Fin 64).val + (1 : Fin 32).val < base.ext.count ∧
    ¬ 32 * (0 : Fin 64).val + (2 : Fin 32).val < base.ext.count := by decide +kernel

theorem hyps_ChangedUnitsAreOwed_each_case :
    (base.ring.state = .attached ∧
      ∃ t, exec (.presenceRise 0) base = .next t ∧ t.ring.state = .attached ∧
        t.unitShows (.slot 0) ≠ base.unitShows (.slot 0)) ∧
    ({ base with ring := { base.ring with stale := [.slot 0] } } : State).owes (.slot 0) ∧
    ((ringHead (.status .header)).ring.state = .attached ∧ (ringHead (.status .header)).owes .header ∧
      ∃ t, exec (.grant 0) (ringHead (.status .header)) = .next t) := by
  refine ⟨⟨rfl, _, rfl, by decide +kernel, by decide +kernel⟩, .inl ?_, rfl, .inr ?_, _, rfl⟩
  · exact List.mem_singleton.2 rfl
  · exact List.mem_singleton.2 rfl

theorem hyps_ScrubTakesOrDefers_each_case :
    (State.reset.ring.state ≠ .attached ∧ (scrubbing 0).scrub.current ≠ none ∧
      ({ scrubQueued with scrub := { scrubQueued.scrub with deferral := 1 } } : State).ext.queue.length ≤
        ({ scrubQueued with scrub := { scrubQueued.scrub with deferral := 1 } } : State).scrub.deferral) ∧
    (scrubQueued.ring.state = .attached ∧ scrubQueued.scrub.current = none ∧ scrubQueued.ext.queue = 1 :: [] ∧
      scrubQueued.scrub.deferral < scrubQueued.ext.queue.length) ∧
    (∀ k, (scrubQueued.entry k).addresses (scrubQueued.ext.base.toNat + 1 * 65536) = false) ∧
    ∃ k, (scrubBlocked.entry k).addresses (scrubBlocked.ext.base.toNat + 1 * 65536) = true := by decide +kernel

/-- A pass in extent 0 with all its acknowledgements, extent 1 behind it after `k` deferrals. -/
def passDone (k : Nat) (s : State) : State := { s with scrub := ⟨some 0, 256, 256, 0, 0, k⟩ }

theorem hyps_ScrubPassEnds_each_case :
    (∀ errors ∈ ([0, 256] : List Nat),
      ({ base with scrub := ⟨some 1, 256, 256, errors, 0, 0⟩ } : State).scrub.errors = errors ∧ base.ext.queue = [] ∧
      base.ext.count ≤ 2048 ∧
      ∀ k, (base.entry k).who = .scrub → (base.entry k).state ≠ .issued ∧ (base.entry k).state ≠ .late) ∧
    ((passDone 0 scrubQueued).scrub.current = some 0 ∧ (passDone 0 scrubQueued).scrub.acks = 256 ∧
      0 ∉ (passDone 0 scrubQueued).ext.queue ∧ (passDone 0 scrubQueued).ext.queue = 1 :: []) ∧
    ((passDone 0 scrubQueued).scrub.deferral < (passDone 0 scrubQueued).ext.queue.length ∧
      ∀ k, ((passDone 0 scrubQueued).entry k).addresses ((passDone 0 scrubQueued).ext.base.toNat + 1 * 65536) = false) ∧
    ((∃ k, ((passDone 0 scrubBlocked).entry k).addresses ((passDone 0 scrubBlocked).ext.base.toNat + 1 * 65536) = true) ∧
      ∀ k, ((passDone 0 scrubBlocked).entry k).who = .scrub → ((passDone 0 scrubBlocked).entry k).state ≠ .issued ∧
        ((passDone 0 scrubBlocked).entry k).state ≠ .late) ∧
    (passDone 1 scrubBlocked).ext.queue.length ≤ (passDone 1 scrubBlocked).scrub.deferral := by decide +kernel

/-- A LIVE slot with an entry in flight, and a completion for it in front of the queue. -/
def inTraffic : State :=
  { (withSlot { linked .live .translated with timer := .stopped }).setEntry 0 (readEntry .issued) with
    pending := [.memoryCompletion 0 true [9]] }

theorem hyps_every_step_statement_answers : ∃ t, step inTraffic = .next t := ⟨_, rfl⟩

theorem hyps_StepKeepsTheSlots : inTraffic.slotsOk := by unfold State.slotsOk; decide +kernel

theorem hyps_StepKeepsTheRing : inTraffic.ringOk := by
  refine ⟨⟨by decide +kernel, ?_, by decide +kernel, by decide +kernel⟩, by decide +kernel, by decide +kernel, ?_⟩
  · intro h; exact absurd h (by decide +kernel)
  · intro x h; cases h

theorem hyps_StepKeepsReservationsAndQueues : inTraffic.placesReserved ∧ inTraffic.queuesOk := by
  refine ⟨⟨by decide +kernel, by decide +kernel⟩,
    ⟨by decide +kernel, by decide +kernel, by decide +kernel, fun _ => by decide +kernel, by decide +kernel, ?_⟩,
    by decide +kernel, by decide +kernel⟩
  intro h; exact absurd h (by decide +kernel)

theorem hyps_StepKeepsTheCredits : inTraffic.trafficOk := by
  refine ⟨hyps_StepKeepsTheSlots, ?_⟩
  unfold State.creditsOk
  decide +kernel

end Sys2Proof.Tests
end

section
/-! Stray completions of chapter 6 (R120): MEMORY_COMPLETION that names a FREE or a WAITING entry. -/

namespace Sys2Proof.Machine

/-- MEMORY_COMPLETION is the tracker's completion, taken at the moment held (R116). -/
theorem exec_memoryCompletion (k : MemTag) (ok : Bool) (data : List Beat) (s : State) :
    exec (.memoryCompletion k ok data) s = .next (s.complete k ok data) := rfl

/-- A stray leaves nothing but the end of its request on the memory link (R116, R120, log 16). -/
theorem State.complete_stray (s : State) (k : MemTag) (ok : Bool) (data : List Beat)
    (hstray : (s.entry k).state = .free ∨ (s.entry k).state = .waiting) :
    s.complete k ok data = s.heard k := by
  obtain hfree | hwaiting := hstray
  · simp only [State.complete, State.heard, hfree]
  · simp only [State.complete, State.heard, hwaiting]

/-- The end of a request on the memory link is seen in the list of that link alone (log 16). -/
theorem State.heard_eq_relink (s : State) (k : MemTag) :
    s.heard k = { s with trk := { s.trk with link := (s.heard k).trk.link } } := rfl

/-- Settles O31: both states of a stray fall through the case split of a completion to `State.heard`, which touches the
record of the memory link alone. -/
theorem strayCompletionsAreDiscarded : Obligations.StrayCompletionsAreDiscarded := by
  intro s k ok data hstray
  refine ⟨s.heard k, ?_, s.heard_eq_relink k⟩
  rw [exec_memoryCompletion, s.complete_stray k ok data hstray]

end Sys2Proof.Machine
end

section
/-! The request QUERY of chapter 10 (R190), and what a request in execution that names a slot comes to. -/

namespace Sys2Proof.Machine

/-! ## A request in execution that names a slot (R184) -/

/-- The number of a slot is read back as that slot. -/
theorem Request.slotId_of_names {r : Request} {n : SlotId} (hnames : r.names n) : r.slotId = some n := by
  unfold Request.names at hnames
  simp [Request.slotId, hnames]

/-- A request command acts on the slot that its request names. -/
theorem State.slotRequest_of_executing {s : State} {r : Request} {kind : Nat} {n : SlotId}
    (hexec : s.executing r kind) (hnames : r.names n) (f : Request → SlotId → State) :
    s.slotRequest kind f = f r n := by
  obtain ⟨hheld, hkind⟩ := hexec
  simp only [State.slotRequest, State.request, hheld, if_pos hkind, Request.slotId_of_names hnames]

/-- Every kind but PUBLISH, WITHDRAW and DETACH has its slot byte echoed as read (log 22). -/
theorem Request.echoSlot_of_kind {r : Request} (hkind : r.kind.toNat ∉ [8, 9, 12]) : r.echoSlot = r.slot := by
  simp only [Request.echoSlot, List.contains_eq_mem, hkind, decide_false, Bool.false_eq_true, if_false]

/-- `State.finish` is the answer in the reserved place, and no more. -/
theorem State.finish_eq_answeredWith (s : State) (a : Response) : s.finish a = s.answeredWith a := rfl

/-! ## QUERY (R190) -/

/-- QUERY acts on the slot of the request in execution. -/
theorem exec_query_of_executing {s : State} {r : Request} {n : SlotId} (hexec : s.executing r 11)
    (hnames : r.names n) : exec .query s = .next (s.querySlot r n) :=
  congrArg _ (State.slotRequest_of_executing hexec hnames s.querySlot)

/-- What a QUERY answers: OK, with the values that the slot holds before any clear. -/
def State.queryAnswer (s : State) (r : Request) (n : SlotId) : Response :=
  r.answer .ok (.query (s.slot n).incarnation (s.slot n).state (s.slot n).counters)

/-- The response to a QUERY field by field, with its slot byte as read. -/
theorem State.queryAnswer_eq (s : State) {r : Request} (n : SlotId) (hkind : r.kind.toNat = 11) :
    s.queryAnswer r n =
      ⟨.ok, r.slot, r.kind, r.seq, .query (s.slot n).incarnation (s.slot n).state (s.slot n).counters⟩ := by
  have hecho : r.echoSlot = r.slot := Request.echoSlot_of_kind (by simp [hkind])
  simp only [State.queryAnswer, Request.answer, hecho]

/-- A QUERY that leaves the counters is the answer alone. -/
theorem State.querySlot_keeping (s : State) {r : Request} (n : SlotId) (hkeep : r.p4.getLsbD 0 = false) :
    s.querySlot r n = s.answeredWith (s.queryAnswer r n) := by
  simp only [State.querySlot, hkeep, Bool.false_eq_true, if_false, State.finish_eq_answeredWith, State.queryAnswer]

/-- The ten counters of a slot set to 0 (R190). -/
def State.clearCounters (s : State) (n : SlotId) : State := s.modSlot n fun sl => { sl with counters := Counters.zero }

/-- The slot whose counters are cleared keeps all else. -/
@[simp] theorem State.clearCounters_slot_self (s : State) (n : SlotId) :
    (s.clearCounters n).slot n = { s.slot n with counters := Counters.zero } :=
  s.modSlot_slot_self n _

/-- Clearing the counters of a slot leaves the other slots. -/
theorem State.clearCounters_slot_of_ne (s : State) {n m : SlotId} (hne : m ≠ n) :
    (s.clearCounters n).slot m = s.slot m :=
  s.modSlot_slot_of_ne n m _ hne

/-- The status block shows no counters, so their clearing marks nothing stale (R189, R190). -/
theorem State.clearCounters_ring (s : State) (n : SlotId) : (s.clearCounters n).ring = s.ring :=
  s.modSlot_ring_of_shown n _ rfl

/-- Clearing the counters of a slot changes the slots alone. -/
theorem State.clearCounters_eq (s : State) (n : SlotId) :
    s.clearCounters n = { s with slots := (s.clearCounters n).slots } :=
  congrArg (fun ring => { s with slots := (s.clearCounters n).slots, ring := ring }) (s.clearCounters_ring n)

/-- A QUERY with the clear flag clears the counters and answers with what they were. -/
theorem State.querySlot_clearing (s : State) {r : Request} (n : SlotId) (hclear : r.p4.getLsbD 0 = true) :
    s.querySlot r n = (s.clearCounters n).answeredWith (s.queryAnswer r n) := by
  simp only [State.querySlot, hclear, if_true, State.finish_eq_answeredWith, State.queryAnswer, State.clearCounters]

/-- An answer leaves every slot. -/
@[simp] theorem State.answeredWith_slot (s : State) (a : Response) (m : SlotId) :
    (s.answeredWith a).slot m = s.slot m := rfl

/-- Apart from the slots, a QUERY is the answer alone. -/
theorem State.querySlot_eq_answeredWith (s : State) (r : Request) (n : SlotId) :
    s.querySlot r n = { s.answeredWith (s.queryAnswer r n) with slots := (s.querySlot r n).slots } := by
  cases hflag : r.p4.getLsbD 0 with
  | false => rw [s.querySlot_keeping n hflag]
  | true => rw [s.querySlot_clearing n hflag, s.clearCounters_eq n]; rfl

/-- The slot of a QUERY keeps all it holds but the counters, which the flag sets to 0. -/
theorem State.querySlot_slot_self (s : State) (r : Request) (n : SlotId) :
    (s.querySlot r n).slot n = { s.slot n with
      counters := if r.p4.getLsbD 0 then Counters.zero else (s.slot n).counters } := by
  cases hflag : r.p4.getLsbD 0 with
  | false => simp [s.querySlot_keeping n hflag]
  | true => simp [s.querySlot_clearing n hflag]

/-- A QUERY leaves the slots that it does not name. -/
theorem State.querySlot_slot_of_ne (s : State) (r : Request) {n m : SlotId} (hne : m ≠ n) :
    (s.querySlot r n).slot m = s.slot m := by
  cases hflag : r.p4.getLsbD 0 with
  | false => simp [s.querySlot_keeping n hflag]
  | true => simp [s.querySlot_clearing n hflag, s.clearCounters_slot_of_ne hne]

/-- Settles O49: QUERY is `State.querySlot` on the named slot; the clearing, where the flag asks for it, touches nothing
that the status block shows, so that the answer alone reaches the Ring Interface. -/
theorem queryReadsAndClears : Obligations.QueryReadsAndClears := by
  intro s r n hexec hnames
  refine ⟨s.querySlot r n, exec_query_of_executing hexec hnames, s.querySlot_slot_self r n, ?_,
    fun m hne => s.querySlot_slot_of_ne r hne⟩
  rw [← s.queryAnswer_eq n hexec.2]
  exact s.querySlot_eq_answeredWith r n

end Sys2Proof.Machine
end

section
/-! The table of R2 and the intake and place rules of R60 to R64, R74 as propositions: what each slot state asks of its
record, said once for the step lemmas of the slots and of the credits. -/

namespace Sys2Proof.Machine

/-! ## What a state asks of a slot (R1 to R3, R60, R63, R64, R74) -/

/-- LINK_EN deasserted: no intake, no place and no frame (R60, R64). -/
@[simp] def Slot.unlinked (sl : Slot) : Prop :=
  sl.linkEn = false ∧ sl.intake = .none ∧ sl.linkUp = false ∧ sl.placesOpen = 0 ∧ sl.partly = none

/-- No end recorded: REMOVE_OK deasserted, no fault cause, no resume state, no pending fault (R1, R2). -/
@[simp] def Slot.plain (sl : Slot) : Prop :=
  sl.removeOk = false ∧ sl.fault = none ∧ sl.resume = none ∧ sl.pendingFault = none

/-- No credit and no queued request (R2, R74). -/
@[simp] def Slot.idle (sl : Slot) : Prop := sl.effCredit = 0 ∧ sl.ingress = []

/-- The eight places, of which a link that is down has none open and no frame (R60, R63). -/
def Slot.fits (sl : Slot) : Prop :=
  sl.ingress.length + sl.partlyPlaces + sl.placesOpen ≤ 8 ∧ (sl.linkUp = true → sl.linkEn = true) ∧
    (sl.linkUp = false → sl.placesOpen = 0 ∧ sl.partly = none)

/-- Power and link asserted, the intake mode given. -/
@[simp] def Slot.linked (sl : Slot) (mode : Intake) : Prop :=
  sl.pwrEn = true ∧ sl.linkEn = true ∧ sl.intake = mode ∧ sl.fits

/-- What a state asks of the record: the rows of R2 with the intake modes of R64. -/
@[simp] def Slot.asIn (sl : Slot) : SlotState → Prop
  | .empty => sl.pwrEn = false ∧ sl.unlinked ∧ sl.plain ∧ sl.idle ∧ sl.timer = .stopped
  | .seating => sl.pwrEn = false ∧ sl.unlinked ∧ sl.plain ∧ sl.idle ∧ sl.timer ≠ .stopped
  | .powering => sl.pwrEn = true ∧ sl.unlinked ∧ sl.plain ∧ sl.idle ∧ sl.timer ≠ .stopped
  | .identifying | .pending => sl.pwrEn = true ∧ sl.unlinked ∧ sl.plain ∧ sl.idle ∧ sl.timer = .stopped
  | .probing => sl.linked .probe ∧ sl.plain ∧ sl.idle ∧ sl.timer ≠ .stopped
  | .settling => sl.linked .translated ∧ sl.plain ∧ sl.timer ≠ .stopped
  | .live => sl.linked .translated ∧ sl.plain ∧ sl.timer = .stopped
  | .holding => sl.linked .closed ∧ sl.plain ∧ sl.timer ≠ .stopped
  | .held => sl.linked .closed ∧ sl.plain ∧ sl.timer = .stopped
  | .grace => (∃ back, sl.resume = some back ∧ back.traffic = true ∧ sl.linked (intakeOf back true)) ∧
      sl.removeOk = false ∧ sl.fault = none ∧ sl.pendingFault = none ∧ sl.timer ≠ .stopped
  | .retiring => (sl.linkEn = true → sl.pwrEn = true) ∧ sl.intake = (if sl.linkEn = true then .fence else .none) ∧
      sl.fits ∧ sl.removeOk = false ∧ sl.fault = none ∧ sl.resume = none ∧ sl.timer ≠ .stopped
  | .retired => sl.pwrEn = false ∧ sl.unlinked ∧ sl.removeOk = true ∧ sl.fault = none ∧ sl.resume = none ∧
      sl.pendingFault = none ∧ sl.idle ∧ sl.timer = .stopped
  | .faulted => sl.pwrEn = false ∧ sl.unlinked ∧ sl.removeOk = true ∧ sl.fault ≠ none ∧ sl.resume = none ∧
      sl.pendingFault = none ∧ sl.idle ∧ sl.timer = .stopped
  | .vacating => sl.pwrEn = false ∧ sl.unlinked ∧ sl.plain ∧ queuedWritesOf sl.ingress = sl.ingress ∧
      sl.ingress.length ≤ 8 ∧ sl.timer ≠ .stopped

/-- The places of a slot, as `Slot.fits` says them (R24, R60, R63, R74). -/
theorem Slot.placesOk_iff (sl : Slot) : sl.placesOk = true ↔ sl.fits ∧ (sl.state.mayQueue = true ∨ sl.ingress = []) ∧
    (sl.state = .vacating → queuedWritesOf sl.ingress = sl.ingress) := by
  simp only [Slot.placesOk, Slot.fits, Bool.and_eq_true, Bool.or_eq_true, decide_eq_true_eq, List.isEmpty_iff,
    Bool.not_eq_true', Option.isNone_iff_eq_none]
  cases sl.linkEn <;> cases sl.linkUp <;> simp <;> tauto

/-- A link that is not asserted has no place open and no frame. -/
theorem Slot.fits_of_linkEn_false {sl : Slot} (hen : sl.linkEn = false) :
    sl.fits ↔ sl.ingress.length ≤ 8 ∧ sl.linkUp = false ∧ sl.placesOpen = 0 ∧ sl.partly = none := by
  cases hup : sl.linkUp <;> cases hp : sl.partly <;> simp [Slot.fits, Slot.partlyPlaces, hen, hup, hp]
  omega

/-- The invariants of a slot are what its state asks for. -/
theorem Slot.ok_iff (sl : Slot) : sl.ok = true ↔ sl.asIn sl.state := by
  have hoff := sl.fits_of_linkEn_false
  simp only [Slot.ok, Bool.and_eq_true, Slot.placesOk_iff]
  cases hst : sl.state
  case grace =>
    cases hres : sl.resume <;>
      simp [Slot.linesOk, Slot.intakeOk, Slot.fieldsOk, Slot.timerOk, SlotState.noCredit, SlotState.untimed,
        SlotState.mayQueue, hst, hres]
    cases sl.linkEn <;> simp
    tauto
  case faulted =>
    cases hfault : sl.fault <;>
      simp [Slot.linesOk, Slot.intakeOk, Slot.fieldsOk, Slot.timerOk, intakeOf, SlotState.noCredit, SlotState.untimed,
        SlotState.mayQueue, hst, hfault]
    grind
  all_goals
    simp [Slot.linesOk, Slot.intakeOk, Slot.fieldsOk, Slot.timerOk, intakeOf, SlotState.noCredit, SlotState.untimed,
      SlotState.mayQueue, hst]
    grind
end Sys2Proof.Machine
end

section
/-! How a step that works on one slot keeps the invariants of the slots and of the credits: the frame of such a step, what it
may do to the tracker's entries, and the one lemma from which both invariants of it follow. -/

namespace Sys2Proof.Machine

/-! ## A step on one slot -/

/-- Slot `n` reads `sl` afterwards, every other slot stands, and the part is attached as before. -/
def slotTurns (n : SlotId) (s t : State) (sl : Slot) : Prop :=
  t.slot n = sl ∧ (∀ m, m ≠ n → t.slot m = s.slot m) ∧ t.ring.state = s.ring.state

theorem slotTurns.trans {n : SlotId} {s t u : State} {a b : Slot} (h : slotTurns n s t a) (k : slotTurns n t u b) :
    slotTurns n s u b :=
  ⟨k.1, fun m hm => (k.2.1 m hm).trans (h.2.1 m hm), k.2.2.trans h.2.2⟩

theorem slotTurns_modSlot (n : SlotId) (s : State) (f : Slot → Slot) : slotTurns n s (s.modSlot n f) (f (s.slot n)) :=
  ⟨s.modSlot_slot_self n f, fun m hm => s.modSlot_slot_of_ne n m f hm, s.modSlot_ring_state n f⟩

/-- Slot `n` changed once more by `f`. -/
theorem slotTurns.modSlot {n : SlotId} {s t : State} {a : Slot} (h : slotTurns n s t a) (f : Slot → Slot) :
    slotTurns n s (t.modSlot n f) (f a) :=
  h.1 ▸ h.trans (slotTurns_modSlot n t f)

/-- An event handed over after the change. -/
theorem slotTurns.postEvent {n : SlotId} {s t : State} {a : Slot} (h : slotTurns n s t a) (e : Event) :
    slotTurns n s (t.postEvent e) a :=
  ⟨h.1, h.2.1, (Ring.postEvent_state _ _).trans h.2.2⟩

theorem slotTurns_isolate (n : SlotId) (s : State) : slotTurns n s (s.isolate n) (s.slot n).isolated :=
  slotTurns_modSlot n s _

theorem slotTurns_powerOff (n : SlotId) (s : State) :
    slotTurns n s (s.powerOff n) { s.slot n with pwrEn := false, sbdatLow := false } := by
  obtain ⟨hself, hothers, -, hring⟩ := s.powerOff_spec n
  exact ⟨hself, hothers, by rw [hring]⟩

theorem slotTurns_dropReads (n : SlotId) (s : State) :
    slotTurns n s (s.dropReads n) { s.slot n with ingress := queuedWritesOf (s.slot n).ingress, holdList := [] } :=
  ⟨s.dropReads_slot_self n, fun m hm => s.dropReads_slot_of_ne n m hm, by rw [s.dropReads_ring]⟩

/-- A slot that is shut down is the one slot that changes. -/
theorem shutsDown.turns {n : SlotId} {s t : State} {sl : Slot} {e : Event} (h : shutsDown n s t sl e) :
    slotTurns n s t sl := by
  obtain ⟨hself, hothers, -, -, -, -, ⟨r, hr, hring⟩, -⟩ := h
  exact ⟨hself, hothers, by rw [hring, Ring.postEvent_state, hr]⟩

/-- A link-down drain changes the one slot. -/
theorem slotTurns_linkDownDrain (n : SlotId) (s : State) :
    slotTurns n s (s.linkDownDrain n) ((s.linkDownDrain n).slot n) := by
  obtain ⟨⟨hothers, -, -, -, hends⟩, -, hleft⟩ := s.linkDownDrain_spec n
  refine ⟨rfl, hothers, ?_⟩
  by_cases hw : s.writesLeft n
  · rw [(hleft hw).2]
  · obtain ⟨-, -, -, -, r, hr, hring⟩ := hends hw
    rw [hring, Ring.postEvent_state, hr]

/-! ## The tracker's entries under such a step -/

/-- An entry that is given up, delivered or freed: it counts for no slot for which it did not count, of the same incarnation
and kind, and keeps no answer that is not a read's (R108, R125). -/
def Entry.eases (e e' : Entry) : Prop :=
  (e.keepsOk = true → e'.keepsOk = true) ∧
    ∀ n, e'.countsFor n = true → e.countsFor n = true ∧ e'.incarnation = e.incarnation ∧ e'.kind = e.kind

theorem Entry.eases_refl (e : Entry) : e.eases e := ⟨id, fun _ h => ⟨h, rfl, rfl⟩⟩

theorem Entry.eases_free (e : Entry) : e.eases Entry.free :=
  ⟨fun _ => rfl, fun _ h => by simp [Entry.countsFor, EntryState.inFlight, Entry.free] at h⟩

theorem Entry.eases.trans {a b c : Entry} (h : a.eases b) (k : b.eases c) : a.eases c :=
  ⟨fun x => k.1 (h.1 x), fun n x =>
    have hb := k.2 n x
    have ha := h.2 n hb.1
    ⟨ha.1, hb.2.1.trans ha.2.1, hb.2.2.trans ha.2.2⟩⟩

/-- An entry that becomes ORPHAN and gives up its answer. -/
theorem Entry.eases_orphan (e : Entry) : e.eases { e with state := .orphan, held := .none } := by
  refine ⟨fun _ => by simp [Entry.keepsOk], fun n hc => ?_⟩
  simp [Entry.countsFor, EntryState.inFlight] at hc

theorem Entry.eases_givenUp (e : Entry) (n : SlotId) (inc : Half) : e.eases (e.givenUp n inc) := by
  unfold Entry.givenUp
  split
  · split
    · exact e.eases_orphan
    · exact e.eases_orphan
    · exact e.eases_free
    all_goals exact e.eases_refl
  · exact e.eases_refl

theorem Entry.eases_orphaned (e : Entry) (n : SlotId) (inc : Half) (sel : AccessKind → Bool) :
    e.eases (e.orphaned n inc sel) := by
  unfold Entry.orphaned
  split
  · exact e.eases_orphan
  · exact e.eases_refl

/-- An in-flight count is that of the entries that count (R108). -/
theorem State.inFlight_le {s t : State} {n : SlotId}
    (h : ∀ k, (t.entry k).countsFor n = true → (s.entry k).countsFor n = true) :
    t.inFlight (.slot n) ≤ s.inFlight (.slot n) := by
  have hcount : ∀ u : State, u.inFlight (.slot n) = (List.finRange 64).countP fun k => (u.entry k).countsFor n := by
    intro u
    have hlist : u.trk.entries.toList = (List.finRange 64).map u.entry := by
      apply List.ext_getElem <;> simp [State.entry, Vector.get_eq_getElem]
    rw [State.inFlight, hlist, List.countP_map]
    rfl
  rw [hcount, hcount]
  exact List.countP_mono_left fun k _ => h k

/-- Entries of a slot that give up nothing leave its in-flight count where nothing of it counts. -/
theorem State.inFlight_eq_zero {s : State} {n : SlotId} (h : ∀ k, (s.entry k).countsFor n = false) :
    s.inFlight (.slot n) = 0 := (s.inFlight_eq_zero_iff n).2 h

/-! ## Both invariants at once -/

/-- The step from `s` to `t` keeps the invariants of the slots, and with them those of the credits. -/
def keepsTraffic (s t : State) : Prop := s.slotsOk → t.slotsOk ∧ (s.creditsOk → t.creditsOk)

theorem keepsTraffic_refl (s : State) : keepsTraffic s s := fun h => ⟨h, id⟩

theorem keepsTraffic.trans {s t u : State} (h : keepsTraffic s t) (k : keepsTraffic t u) : keepsTraffic s u := fun hs =>
  have ht := h hs
  have hu := k ht.1
  ⟨hu.1, fun hc => hu.2 (ht.2 hc)⟩

/-- What slot `n` may do with its credit: nothing of it counts any more, or the credit does not fall below the old one, the
incarnation stands, and in VACATING only writes count (R24, R108, R111). -/
def creditStands (n : SlotId) (s t : State) : Prop :=
  (∀ k, (t.entry k).countsFor n = false) ∨
    ((s.slot n).effCredit ≤ (t.slot n).effCredit ∧ (t.slot n).incarnation = (s.slot n).incarnation ∧
      ((t.slot n).state = .vacating →
        (s.slot n).state = .vacating ∨ ∀ k, (t.entry k).countsFor n = true → (t.entry k).kind = .write))

/-- A slot that stands keeps its credit. -/
theorem creditStands_of_slot {n : SlotId} {s t : State} (h : t.slot n = s.slot n) : creditStands n s t :=
  .inr ⟨by rw [h], by rw [h], fun hv => .inl (h ▸ hv)⟩

/-- Eased entries under standing credits keep the invariant of the credits. -/
theorem creditsOk_of_stands {s t : State} (hs : s.creditsOk) (hease : ∀ k, (s.entry k).eases (t.entry k))
    (hcredit : ∀ n, creditStands n s t) : t.creditsOk := by
  refine ⟨fun k => (hease k).1 (hs.1 k), fun n => ?_⟩
  obtain ⟨hle, hinc, hvac⟩ := hs.2 n
  rcases hcredit n with hnone | ⟨hcr, hi, hv⟩
  · refine ⟨by rw [State.inFlight_eq_zero hnone]; exact Nat.zero_le _, fun k hk => ?_, fun _ k hk => ?_⟩ <;>
      simp [hnone k] at hk
  · refine ⟨(State.inFlight_le fun k hk => ((hease k).2 n hk).1).trans (hle.trans hcr), fun k hk => ?_, fun hst k hk => ?_⟩
    · obtain ⟨h1, h2, -⟩ := (hease k).2 n hk
      rw [h2, hi, hinc k h1]
    · rcases hv hst with hv | hv
      · obtain ⟨h1, -, h3⟩ := (hease k).2 n hk
        rw [h3, hvac hv k h1]
      · exact hv k hk

/-- A slot in any other state than EMPTY shows that the part is attached (R8). -/
theorem State.attached_of_slotsOk {s : State} (hs : s.slotsOk) {n : SlotId} (h : (s.slot n).state ≠ .empty) :
    s.ring.state = .attached := by
  by_contra hr
  exact h ((hs n).2 hr)

/-- A step on one slot keeps the invariants where the new record does. -/
theorem slotsOk_of_turns {n : SlotId} {s t : State} {sl : Slot} (hs : s.slotsOk) (h : slotTurns n s t sl)
    (hok : sl.ok = true) (hst : s.ring.state = .attached ∨ sl.state = (s.slot n).state) : t.slotsOk := by
  obtain ⟨hself, hothers, hring⟩ := h
  intro m
  rw [hring]
  by_cases hm : m = n
  · subst hm
    rw [hself]
    exact ⟨hok, fun hr => (hst.resolve_left hr).trans ((hs m).2 hr)⟩
  · rw [hothers m hm]
    exact hs m

/-- A step on one slot keeps both invariants where its new record, its entries and its credit do. -/
theorem keepsTraffic_of_turns {n : SlotId} {s t : State} {sl : Slot} (h : slotTurns n s t sl)
    (hok : (s.slot n).ok = true → sl.ok = true)
    (hst : s.ring.state = .attached ∨ (s.slot n).state ≠ .empty ∨ sl.state = (s.slot n).state)
    (hease : ∀ k, (s.entry k).eases (t.entry k)) (hcredit : s.creditsOk → s.slotsOk → creditStands n s t) :
    keepsTraffic s t := by
  intro hs
  refine ⟨slotsOk_of_turns hs h (hok (hs n).1) ?_, fun hc => creditsOk_of_stands hc hease fun m => ?_⟩
  · rcases hst with hst | hst | hst
    · exact .inl hst
    · exact .inl (State.attached_of_slotsOk hs hst)
    · exact .inr hst
  · by_cases hm : m = n
    · exact hm ▸ hcredit hc hs
    · exact creditStands_of_slot (h.2.1 m hm)

/-- The same for a step that leaves the entries. -/
theorem keepsTraffic_of_turns_of_entries {n : SlotId} {s t : State} {sl : Slot} (h : slotTurns n s t sl)
    (hok : (s.slot n).ok = true → sl.ok = true)
    (hst : s.ring.state = .attached ∨ (s.slot n).state ≠ .empty ∨ sl.state = (s.slot n).state)
    (hentry : ∀ k, t.entry k = s.entry k) (hcredit : s.creditsOk → s.slotsOk → creditStands n s t) :
    keepsTraffic s t :=
  keepsTraffic_of_turns h hok hst (fun k => hentry k ▸ (s.entry k).eases_refl) hcredit

/-- With a credit of 0 nothing of a slot counts (R111). -/
theorem State.countsFor_eq_false {s : State} {n : SlotId} (hc : s.creditsOk) (h : (s.slot n).effCredit = 0) (k : MemTag) :
    (s.entry k).countsFor n = false :=
  (s.inFlight_eq_zero_iff n).1 (Nat.le_zero.1 (h ▸ (hc.2 n).1)) k

/-- A step that leaves the slots, eases the entries, and attaches nothing keeps both invariants. -/
theorem keepsTraffic_of_slots {s t : State} (hslot : ∀ m, t.slot m = s.slot m)
    (hring : s.ring.state = .attached → t.ring.state = .attached) (hease : ∀ k, (s.entry k).eases (t.entry k)) :
    keepsTraffic s t := by
  intro hs
  refine ⟨fun m => ?_, fun hc => creditsOk_of_stands hc hease fun m => creditStands_of_slot (hslot m)⟩
  rw [hslot m]
  exact ⟨(hs m).1, fun hr => (hs m).2 fun ha => hr (hring ha)⟩

/-- The same where the entries stand. -/
theorem keepsTraffic_of_eq {s t : State} (hslot : ∀ m, t.slot m = s.slot m) (hring : t.ring.state = s.ring.state)
    (hentry : ∀ k, t.entry k = s.entry k) : keepsTraffic s t :=
  keepsTraffic_of_slots hslot (fun h => hring.trans h) fun k => hentry k ▸ (s.entry k).eases_refl

end Sys2Proof.Machine
end

section
/-! The steps that work on one slot keep the invariants of the slots and of the credits (R1 to R3, R8, R24, R60, R63, R64, R74,
R108, R111): the entries to states, the ends and the drains. -/

namespace Sys2Proof.Machine

/-! ## Primitives -/

/-- A slot changed by `f` keeps both invariants where `f` keeps the slot's own and its credit. -/
theorem keepsTraffic_modSlot {s : State} {n : SlotId} {f : Slot → Slot} (hok : (s.slot n).ok = true → (f (s.slot n)).ok = true)
    (hst : s.ring.state = .attached ∨ (s.slot n).state ≠ .empty ∨ (f (s.slot n)).state = (s.slot n).state)
    (hcredit : (f (s.slot n)).effCredit = (s.slot n).effCredit)
    (hinc : (f (s.slot n)).incarnation = (s.slot n).incarnation)
    (hvac : (f (s.slot n)).state = .vacating → (s.slot n).state = .vacating) : keepsTraffic s (s.modSlot n f) := by
  refine keepsTraffic_of_turns_of_entries (slotTurns_modSlot n s f) hok hst (fun _ => rfl) fun _ _ => .inr ?_
  rw [State.modSlot_slot_self]
  exact ⟨hcredit.ge, hinc, fun hv => .inl (hvac hv)⟩

/-- A change that none of the slot's invariants reads. -/
theorem keepsTraffic_modSlot_of_ok {s : State} {n : SlotId} {f : Slot → Slot} (hok : (f (s.slot n)).ok = (s.slot n).ok)
    (hst : (f (s.slot n)).state = (s.slot n).state) (hcredit : (f (s.slot n)).effCredit = (s.slot n).effCredit)
    (hinc : (f (s.slot n)).incarnation = (s.slot n).incarnation) : keepsTraffic s (s.modSlot n f) :=
  keepsTraffic_modSlot (fun h => hok.trans h) (.inr (.inr hst)) hcredit hinc fun hv => hst ▸ hv

theorem State.postEvent_keepsTraffic (s : State) (e : Event) : keepsTraffic s (s.postEvent e) :=
  keepsTraffic_of_eq (fun _ => rfl) (Ring.postEvent_state _ _) fun _ => rfl

theorem State.setEntry_keepsTraffic (s : State) {k : MemTag} {e : Entry} (h : (s.entry k).eases e) :
    keepsTraffic s (s.setEntry k e) := by
  refine keepsTraffic_of_slots (fun _ => rfl) id fun j => ?_
  rw [State.setEntry_entry]
  split
  · rename_i hj; exact hj ▸ h
  · exact Entry.eases_refl _

theorem State.freeEntry_keepsTraffic (s : State) (k : MemTag) : keepsTraffic s (s.freeEntry k) := by
  refine keepsTraffic_of_slots (fun _ => rfl) id fun j => ?_
  by_cases hj : j = k
  · rw [hj, State.freeEntry_entry_self]; exact Entry.eases_free _
  · rw [State.freeEntry_entry_of_ne _ _ _ hj]; exact Entry.eases_refl _

/-- A slot without credit that is shut down keeps both invariants where its new record does. -/
theorem shutsDown.keepsTraffic {n : SlotId} {s t : State} {sl : Slot} {e : Event} (h : shutsDown n s t sl e)
    (hok : (s.slot n).ok = true → sl.ok = true) (hst : (s.slot n).state ≠ .empty)
    (hnone : s.creditsOk → s.slotsOk → ∀ k, (s.entry k).countsFor n = false) : keepsTraffic s t := by
  have hentry : ∀ k, t.entry k = s.entry k := fun k => by rw [State.entry, h.2.2.1, State.entry]
  exact keepsTraffic_of_turns_of_entries h.turns hok (.inr (.inl hst)) hentry fun hc hs =>
    .inl fun k => by rw [hentry k]; exact hnone hc hs k

/-- In the states of which R2 asks a credit of 0, nothing of the slot counts. -/
theorem State.countsFor_of_noCredit {s : State} {n : SlotId} (hst : (s.slot n).state.noCredit = true) (hc : s.creditsOk)
    (hs : s.slotsOk) (k : MemTag) : (s.entry k).countsFor n = false := by
  refine State.countsFor_eq_false hc ?_ k
  have h := (Slot.ok_iff _).1 (hs n).1
  cases hcase : (s.slot n).state <;> simp [hcase, SlotState.noCredit] at hst h ⊢ <;> tauto

/-! ## Ends before traffic (R6, R11, R20, R23) -/

/-- The powered states before traffic. -/
def SlotState.beforeTraffic : SlotState → Prop
  | .powering | .identifying | .pending | .probing => True
  | .empty | .seating | .settling | .live | .holding | .held | .grace | .retiring | .retired | .faulted | .vacating => False

theorem SlotState.noCredit_of_beforeTraffic {st : SlotState} (h : st.beforeTraffic) :
    st.noCredit = true ∧ st ≠ .empty := by
  cases st <;> simp_all [SlotState.beforeTraffic, SlotState.noCredit]

/-- A slot without queued requests that is shut down is as FAULTED asks. -/
theorem Slot.toFaulted_ok {sl : Slot} (c : FaultCause) (hin : sl.ingress = []) (hres : sl.resume = none) :
    (sl.shut.toFaulted c).ok = true := by
  simp [Slot.ok_iff, Slot.toFaulted, Slot.shut, hin, hres]

/-- A slot without queued requests that is shut down is as RETIRED asks. -/
theorem Slot.toRetired_ok {sl : Slot} (hin : sl.ingress = []) (hres : sl.resume = none) (hfault : sl.fault = none) :
    sl.shut.toRetired.ok = true := by
  simp [Slot.ok_iff, Slot.toRetired, Slot.shut, hin, hres, hfault]

/-- A slot without queued requests that is shut down is as EMPTY asks. -/
theorem Slot.toEmpty_ok {sl : Slot} (hin : sl.ingress = []) (hres : sl.resume = none) (hpend : sl.pendingFault = none) :
    sl.shut.toEmpty.ok = true := by
  simp [Slot.ok_iff, Slot.toEmpty, Slot.shut, hin, hres, hpend]

/-- Before traffic a slot has no request queued, no resume state, no fault and no pending fault. -/
theorem Slot.clear_of_beforeTraffic {sl : Slot} (hok : sl.ok = true) (hst : sl.state.beforeTraffic) :
    sl.ingress = [] ∧ sl.resume = none ∧ sl.fault = none ∧ sl.pendingFault = none := by
  rw [Slot.ok_iff] at hok
  cases hcase : sl.state <;> simp [hcase, SlotState.beforeTraffic] at hst hok ⊢ <;> tauto

theorem State.faultSlot_keepsTraffic {s : State} {n : SlotId} (c : FaultCause) (hst : (s.slot n).state.beforeTraffic) :
    keepsTraffic s (s.faultSlot n c) := by
  refine (shutsDown_of s n (fun sl => sl.toFaulted c) _).keepsTraffic (fun hok => ?_)
    (SlotState.noCredit_of_beforeTraffic hst).2
    (State.countsFor_of_noCredit (SlotState.noCredit_of_beforeTraffic hst).1)
  obtain ⟨hin, hres, -, -⟩ := Slot.clear_of_beforeTraffic hok hst
  exact Slot.toFaulted_ok c hin hres

/-- The states that a presence drop leaves for EMPTY (R23). -/
theorem State.pullOut_keepsTraffic {s : State} {n : SlotId}
    (hst : (s.slot n).state.beforeTraffic ∨ (s.slot n).state = .retired ∨ (s.slot n).state = .faulted) :
    keepsTraffic s (s.pullOut n) := by
  have hno : (s.slot n).state.noCredit = true ∧ (s.slot n).state ≠ .empty := by
    rcases hst with hst | hst | hst
    · exact SlotState.noCredit_of_beforeTraffic hst
    · simp [hst, SlotState.noCredit]
    · simp [hst, SlotState.noCredit]
  refine (shutsDown_of s n Slot.toEmpty _).keepsTraffic (fun hok => ?_) hno.2 (State.countsFor_of_noCredit hno.1)
  have hclear : (s.slot n).ingress = [] ∧ (s.slot n).resume = none ∧ (s.slot n).pendingFault = none := by
    rcases hst with hst | hst | hst
    · obtain ⟨hin, hres, -, hpend⟩ := Slot.clear_of_beforeTraffic hok hst
      exact ⟨hin, hres, hpend⟩
    · rw [Slot.ok_iff, hst] at hok; simp at hok; tauto
    · rw [Slot.ok_iff, hst] at hok; simp at hok; tauto
  exact Slot.toEmpty_ok hclear.1 hclear.2.1 hclear.2.2

/-- The identity job's failure, in IDENTIFYING (R11). -/
theorem State.identityFailed_keepsTraffic {s : State} {n : SlotId} (c : FaultCause) (hst : (s.slot n).state = .identifying) :
    keepsTraffic s (s.identityFailed n c) := by
  refine (keepsTraffic_modSlot_of_ok rfl rfl rfl rfl).trans (State.faultSlot_keepsTraffic c ?_)
  simp [hst, SlotState.beforeTraffic]

theorem State.identified_keepsTraffic {s : State} {n : SlotId} (ws : List Half) (hst : (s.slot n).state = .identifying) :
    keepsTraffic s (s.identified n ws) := by
  refine (keepsTraffic_modSlot (fun hok => ?_) (.inr (.inl (by simp [hst]))) rfl rfl (by simp)).trans
    (State.postEvent_keepsTraffic _ _)
  rw [Slot.ok_iff, hst] at hok
  simp [Slot.ok_iff] at hok ⊢
  tauto

theorem State.identityOutcome_keepsTraffic (s : State) (n : SlotId) (ws : Option (List Half)) :
    keepsTraffic s (s.identityOutcome n ws) := by
  unfold State.identityOutcome
  split
  · rename_i hst
    split
    · exact State.identityFailed_keepsTraffic _ hst
    · split
      · exact State.identified_keepsTraffic _ hst
      · exact State.identityFailed_keepsTraffic _ hst
  · exact keepsTraffic_refl s

/-! ## Entries before traffic (R9, R10, R22) -/

theorem State.seat_keepsTraffic {s : State} {n : SlotId} (hatt : s.ring.state = .attached)
    (hst : (s.slot n).state = .empty) : keepsTraffic s (s.seat n) := by
  refine keepsTraffic_modSlot (fun hok => ?_) (.inl hatt) rfl rfl (by simp [Slot.toSeating])
  rw [Slot.ok_iff, hst] at hok
  simp [Slot.ok_iff, Slot.toSeating] at hok ⊢
  tauto

/-- A slot's change followed by a hand-over of its identity job is that change. -/
theorem slotTurns.handIdentity {n : SlotId} {s t : State} {a : Slot} (h : slotTurns n s t a) :
    slotTurns n s (t.handIdentity n) a :=
  ⟨by simp [h.1], fun m hm => by simp [h.2.1 m hm], by simp [h.2.2]⟩

/-- POWERING and IDENTIFYING ask the same of the record but for the timer (R10). -/
theorem State.identify_keepsTraffic {s : State} {n : SlotId} (hst : (s.slot n).state = .powering) :
    keepsTraffic s (s.identify n) := by
  refine keepsTraffic_of_turns_of_entries (slotTurns_modSlot n s _).handIdentity (fun hok => ?_)
    (.inr (.inl (by simp [hst]))) (fun k => by simp [State.identify]) fun _ _ => .inr ?_
  · rw [Slot.ok_iff, hst] at hok
    simp [Slot.ok_iff] at hok ⊢
    tauto
  · simp [State.identify]

/-- A slot powered up: from SEATING, and from RETIRED or FAULTED with the fault cause cleared (R9, R22). -/
theorem State.powerUp_keepsTraffic_of {s0 s : State} {n : SlotId} {sl : Slot} (h : slotTurns n s0 s sl)
    (hentry : ∀ k, s.entry k = s0.entry k) (hst : (s0.slot n).state ≠ .empty)
    (hpower : (s0.slot n).ok = true → sl.unlinked ∧ sl.fault = none ∧ sl.resume = none ∧ sl.pendingFault = none ∧ sl.idle)
    (hcredit : sl.effCredit = (s0.slot n).effCredit) (hinc : sl.incarnation = (s0.slot n).incarnation) :
    keepsTraffic s0 (s.powerUp n) := by
  have hpowering : keepsTraffic s0 (s.modSlot n fun sl => { sl with
      state := .powering, pwrEn := true, removeOk := false, timer := .running s.now (s.params.powerLimit * 1000) }) := by
    refine keepsTraffic_of_turns_of_entries (h.modSlot _) (fun hok => ?_) (.inr (.inl hst)) (fun k => by simp [hentry k])
      fun _ _ => .inr ?_
    · have hp := hpower hok
      simp [Slot.ok_iff] at hp ⊢
      tauto
    · simp [h.1, hcredit, hinc]
  unfold State.powerUp
  split
  · exact hpowering.trans (State.identify_keepsTraffic (by simp))
  · exact hpowering

theorem State.powerUp_keepsTraffic {s : State} {n : SlotId} (hst : (s.slot n).state = .seating) :
    keepsTraffic s (s.powerUp n) := by
  refine State.powerUp_keepsTraffic_of ⟨rfl, fun _ _ => rfl, rfl⟩ (fun _ => rfl) (by simp [hst]) (fun hok => ?_) rfl rfl
  rw [Slot.ok_iff, hst] at hok
  simp at hok ⊢
  tauto

end Sys2Proof.Machine
end

section
/-! The drains and their ends, and the frames at intake, keep the invariants of the slots and of the credits (R20, R21, R24,
R61 to R77, R133, R141 to R151). -/

namespace Sys2Proof.Machine

/-! ## The drain end (R21, R144) -/

/-- What RETIRING asks of the record, the link but for its places apart. -/
def Slot.draining (sl : Slot) : Prop :=
  sl.state = .retiring ∧ sl.removeOk = false ∧ sl.fault = none ∧ sl.resume = none ∧ sl.timer ≠ .stopped

/-- A RETIRING slot is draining. -/
theorem Slot.draining_of_ok {sl : Slot} (hok : sl.ok = true) (hst : sl.state = .retiring) : sl.draining := by
  rw [Slot.ok_iff, hst] at hok
  simp [Slot.draining, hst] at hok ⊢
  tauto

/-- A drained record ends as its pending fault says. -/
theorem Slot.drainEnded_ok {sl : Slot} (h : sl.draining) (hin : sl.ingress = []) : sl.drainEnded.ok = true := by
  obtain ⟨hst, hrem, hfault, hres, -⟩ := h
  unfold Slot.drainEnded
  split
  · exact Slot.toRetired_ok hin hres hfault
  · exact Slot.toFaulted_ok _ hin hres
  · exact Slot.toFaulted_ok _ hin hres

/-- A slot drained after steps on it alone ends its drain. -/
theorem State.endDrain_keepsTraffic_of {s0 s : State} {n : SlotId} {sl : Slot} (h : slotTurns n s0 s sl)
    (hst : (s0.slot n).state ≠ .empty) (hdrain : (s0.slot n).ok = true → sl.draining) (hin : sl.ingress = [])
    (hease : ∀ k, (s0.entry k).eases (s.entry k))
    (hnone : s0.creditsOk → s0.slotsOk → ∀ k, (s.entry k).countsFor n = false) : keepsTraffic s0 (s.endDrain n) := by
  have hends := s.endDrain_spec n
  rw [h.1] at hends
  have hentry : ∀ k, (s.endDrain n).entry k = s.entry k := fun k => by rw [State.entry, hends.2.2.1, State.entry]
  refine keepsTraffic_of_turns (h.trans hends.turns) (fun hok => Slot.drainEnded_ok (hdrain hok) hin) (.inr (.inl hst))
    (fun k => hentry k ▸ hease k) fun hc hs => .inl fun k => ?_
  rw [hentry k]
  exact hnone hc hs k

/-- A drained slot has nothing queued and nothing in flight (R133). -/
theorem State.of_drained {s : State} {n : SlotId} (h : s.drained n = true) :
    (s.slot n).ingress = [] ∧ ∀ k, (s.entry k).countsFor n = false := by
  simp only [State.drained, Bool.and_eq_true, List.isEmpty_iff, beq_iff_eq, State.inFlight_eq_zero_iff] at h
  exact h

/-! ## The link-down drain (R141) -/

/-- A record whose reads are given up under a link-down drain is as RETIRING asks. -/
theorem Slot.drainOfWrites_ok {sl : Slot} (h : sl.draining) (hlen : sl.ingress.length ≤ 8) :
    sl.drainOfWrites.ok = true := by
  obtain ⟨hst, hrem, hfault, hres, htimer⟩ := h
  have hlen' : (queuedWritesOf sl.ingress).length ≤ 8 := (List.length_filter_le _ _).trans hlen
  have hfits : sl.drainOfWrites.fits := by
    rw [Slot.fits_of_linkEn_false rfl]
    exact ⟨hlen', rfl, rfl, rfl⟩
  rw [Slot.ok_iff, show sl.drainOfWrites.state = .retiring from hst]
  exact ⟨fun h => (by cases h), rfl, hfits, hrem, hfault, hres, htimer⟩

/-- A link-down drain that begins after steps on the slot alone. -/
theorem State.linkDownDrain_keepsTraffic_of {s0 s : State} {n : SlotId} {sl : Slot} (h : slotTurns n s0 s sl)
    (hst : (s0.slot n).state ≠ .empty) (hdrain : (s0.slot n).ok = true → sl.draining)
    (hlen : (s0.slot n).ok = true → sl.ingress.length ≤ 8) (hentry : ∀ k, s.entry k = s0.entry k)
    (hcredit : sl.effCredit = (s0.slot n).effCredit) (hinc : sl.incarnation = (s0.slot n).incarnation)
    (hnv : (s0.slot n).ok = true → sl.state ≠ .vacating) : keepsTraffic s0 (s.linkDownDrain n) := by
  obtain ⟨⟨-, hgive, -, hleft, hends⟩, -, -⟩ := s.linkDownDrain_spec n
  have hself := h.1
  rw [hself] at hleft hends hgive
  have hease : ∀ k, (s0.entry k).eases ((s.linkDownDrain n).entry k) := fun k => by
    rw [hgive.1 k, hentry k]; exact Entry.eases_givenUp _ _ _
  by_cases hw : s.writesLeft n
  · obtain ⟨hslot, -, -⟩ := hleft hw
    refine keepsTraffic_of_turns (h.trans (slotTurns_linkDownDrain n s)) (fun hok => ?_) (.inr (.inl hst)) hease ?_
    · rw [hslot]; exact Slot.drainOfWrites_ok (hdrain hok) (hlen hok)
    · intro _ hs
      refine .inr ?_
      rw [hslot]
      exact ⟨hcredit.ge, hinc, fun hv => absurd hv (hnv (hs n).1)⟩
  · obtain ⟨hslot, -⟩ := hends hw
    have hw' := hw
    simp only [State.writesLeft, not_or, not_exists, Bool.not_eq_true, not_not, hself] at hw'
    refine keepsTraffic_of_turns (h.trans (slotTurns_linkDownDrain n s)) (fun hok => ?_) (.inr (.inl hst)) hease ?_
    · rw [hslot]
      have hd := hdrain hok
      exact Slot.drainEnded_ok (sl := sl.drainOfWrites) hd hw'.1
    · exact fun _ _ => .inl fun k => by rw [hgive.1 k]; exact hw'.2 k

/-- The record on its way into RETIRING. -/
theorem Slot.toRetiring_draining {sl : Slot} (p : Option PendingFault) (now limit : Nat)
    (hrem : sl.removeOk = false) (hfault : sl.fault = none) : (sl.toRetiring p now limit).draining := by
  simp [Slot.draining, Slot.toRetiring, hrem, hfault]

/-- The traffic states and GRACE: no end recorded, at most eight requests queued. -/
theorem Slot.carries_of_ok {sl : Slot} (hok : sl.ok = true) (hst : sl.state.traffic = true ∨ sl.state = .grace) :
    sl.removeOk = false ∧ sl.fault = none ∧ sl.pendingFault = none ∧ sl.pwrEn = true ∧ sl.linkEn = true ∧ sl.fits := by
  rw [Slot.ok_iff] at hok
  cases hcase : sl.state <;> simp [hcase, SlotState.traffic] at hst hok ⊢
  case grace =>
    obtain ⟨⟨-, -, -, hpwr, hlink, -, hfits⟩, hrem, hfault, hpend, -⟩ := hok
    exact ⟨hrem, hfault, hpend, hpwr, hlink, hfits⟩
  all_goals tauto

theorem Slot.fits.length_le {sl : Slot} (h : sl.fits) : sl.ingress.length ≤ 8 := by
  have := h.1
  omega

/-- The entry to RETIRING with the link down, from a traffic state or GRACE, after steps on the slot that leave what it has
queued and recorded (R141, R163 to R166). -/
theorem State.toRetiring_linkDownDrain_keepsTraffic {s0 s : State} {n : SlotId} {sl : Slot} (p : Option PendingFault)
    (h : slotTurns n s0 s sl) (hst : (s0.slot n).state.traffic = true ∨ (s0.slot n).state = .grace)
    (hentry : ∀ k, s.entry k = s0.entry k) (hsame : sl.removeOk = (s0.slot n).removeOk ∧ sl.fault = (s0.slot n).fault ∧
      sl.ingress = (s0.slot n).ingress ∧ sl.effCredit = (s0.slot n).effCredit ∧
      sl.incarnation = (s0.slot n).incarnation) :
    keepsTraffic s0 ((s.toRetiring n p).linkDownDrain n) := by
  obtain ⟨hrem, hfault, hin, hcredit, hinc⟩ := hsame
  refine State.linkDownDrain_keepsTraffic_of (h.modSlot _) ?_ (fun hok => ?_) (fun hok => ?_) hentry hcredit hinc
    fun _ => by simp [Slot.toRetiring]
  · rcases hst with hst | hst <;> intro he <;> simp [he, SlotState.traffic] at hst
  · obtain ⟨hr, hf, -⟩ := Slot.carries_of_ok hok hst
    exact Slot.toRetiring_draining _ _ _ (hrem.trans hr) (hfault.trans hf)
  · obtain ⟨-, -, -, -, -, hfits⟩ := Slot.carries_of_ok hok hst
    exact (congrArg List.length hin).trans_le hfits.length_le

/-! ## The ends of VACATING (R24, R133, R148, R150, R151) -/

/-- A VACATING record with nothing queued leaves for SEATING or EMPTY. -/
theorem Slot.vacated_ok {sl : Slot} (now debounce : Nat) (hok : sl.ok = true) (hst : sl.state = .vacating)
    (hin : sl.ingress = []) : (sl.vacated now debounce).ok = true := by
  rw [Slot.ok_iff, hst] at hok
  unfold Slot.vacated
  split
  · simp [Slot.ok_iff, hin] at hok ⊢; tauto
  · simp [Slot.ok_iff, hin] at hok ⊢; tauto

theorem State.endVacating_keepsTraffic {s : State} {n : SlotId} (hst : (s.slot n).state = .vacating)
    (hin : (s.slot n).ingress = []) (hnone : s.creditsOk → s.slotsOk → ∀ k, (s.entry k).countsFor n = false) :
    keepsTraffic s (s.endVacating n) := by
  obtain ⟨hself, hothers, htrk, -, -, -, -, r, hr, hring⟩ := s.endVacating_spec n
  have hentry : ∀ k, (s.endVacating n).entry k = s.entry k := State.entry_of_trk_eq _ _ htrk
  refine keepsTraffic_of_turns_of_entries ⟨hself, hothers, ?_⟩ (fun hok => Slot.vacated_ok _ _ hok hst hin)
    (.inr (.inl (by simp [hst]))) hentry fun hc hs => .inl fun k => by rw [hentry k]; exact hnone hc hs k
  rw [ringNoticed_eq hring, Ring.postEvent_state, hr]

theorem State.settleVacating_keepsTraffic {s : State} {n : SlotId} (hst : (s.slot n).state = .vacating) :
    keepsTraffic s (s.settleVacating n) := by
  unfold State.settleVacating
  split
  · rename_i hd
    obtain ⟨hin, hnone⟩ := State.of_drained hd
    exact State.endVacating_keepsTraffic hst hin fun _ _ => hnone
  · exact keepsTraffic_refl s

/-- Once the reads are given up, what still counts for the slot are writes (R24, R108). -/
theorem Entry.kind_of_givenUp {e : Entry} {n : SlotId} {inc : Half} (hkeep : e.keepsOk = true)
    (hinc : e.countsFor n = true → e.incarnation = inc) (h : (e.givenUp n inc).countsFor n = true) :
    (e.givenUp n inc).kind = .write := by
  by_cases hw : e.who = .slot n ∧ e.incarnation = inc
  · obtain ⟨st, who, i, kind, tag, addr, beats, dl, held⟩ := e
    simp only [Entry.givenUp] at h ⊢
    cases st <;> cases kind <;> simp_all [Entry.countsFor, EntryState.inFlight, Entry.keepsOk, Entry.free]
  · rw [Entry.givenUp, if_neg hw] at h
    have hwho : e.who = .slot n := by
      rw [Entry.countsFor, Bool.and_eq_true, beq_iff_eq] at h
      exact h.2
    exact absurd ⟨hwho, hinc h⟩ hw

theorem State.vacate_keepsTraffic {s : State} {n : SlotId}
    (hst : (s.slot n).state.traffic = true ∨ (s.slot n).state = .grace ∨ (s.slot n).state = .retiring) :
    keepsTraffic s (s.vacate n) := by
  have hne : (s.slot n).state ≠ .empty := by
    rcases hst with hst | hst | hst <;> intro he <;> simp [he, SlotState.traffic] at hst
  have hturn : slotTurns n s _ _ :=
    (((((slotTurns_isolate n s).trans (slotTurns_powerOff n _)).modSlot fun sl =>
      { sl with
        state := .vacating, resume := none, pendingFault := none, forced := false, seated := false,
        timer := .running s.now (s.params.drainLimit * 1000) }).trans (slotTurns_dropReads n _)).postEvent
      (.removed n (s.slot n).incarnation true (s.slot n).state))
  have hgive : ∀ k, (((((s.isolate n).powerOff n).modSlot n fun sl =>
      { sl with
        state := .vacating, resume := none, pendingFault := none, forced := false, seated := false,
        timer := .running s.now (s.params.drainLimit * 1000) }).dropReads n).entry k) =
      (s.entry k).givenUp n (s.slot n).incarnation := fun k => by
    rw [State.dropReads_entry]
    simp [State.powerOff_slot, State.isolate_slot, Slot.isolated, Slot.loseLink, Slot.discardPartly]
  refine (keepsTraffic_of_turns hturn (fun hok => ?_) (.inr (.inl hne)) (fun k => ?_) fun hc hs => .inr ?_).trans
    (State.settleVacating_keepsTraffic ?_)
  · have hrec : (s.slot n).removeOk = false ∧ (s.slot n).fault = none ∧ (s.slot n).ingress.length ≤ 8 := by
      rcases or_assoc.2 hst with hst | hst
      · obtain ⟨hr, hf, -, -, -, hfits⟩ := Slot.carries_of_ok hok hst
        exact ⟨hr, hf, hfits.length_le⟩
      · rw [Slot.ok_iff, hst] at hok
        obtain ⟨-, -, hfits, hr, hf, -⟩ := hok
        exact ⟨hr, hf, hfits.length_le⟩
    obtain ⟨hrem, hfault, hlen⟩ := hrec
    have hlen' : (queuedWritesOf (s.slot n).ingress).length ≤ 8 := (List.length_filter_le _ _).trans hlen
    have htwice : queuedWritesOf (queuedWritesOf (s.slot n).ingress) = queuedWritesOf (s.slot n).ingress := by
      simp [queuedWritesOf, List.filter_filter]
    simp [Slot.ok_iff, State.powerOff_slot, State.isolate_slot, Slot.isolated, Slot.loseLink, Slot.discardPartly, hrem,
      hfault, hlen', htwice]
  · rw [State.postEvent_entry, hgive k]; exact Entry.eases_givenUp _ _ _
  · rw [hturn.1]
    simp only [State.modSlot_slot_self, State.powerOff_slot, State.isolate_slot, if_true, Slot.isolated, Slot.loseLink,
      Slot.discardPartly]
    refine ⟨le_rfl, trivial, fun _ => .inr fun k hk => ?_⟩
    rw [State.postEvent_entry, hgive k] at hk ⊢
    exact Entry.kind_of_givenUp (hc.1 k) ((hc.2 n).2.1 k) hk
  · rw [hturn.1]; simp

end Sys2Proof.Machine
end

section
/-! The frames at intake keep the invariants of the slots and of the credits (R61 to R76). -/

namespace Sys2Proof.Machine

/-! ## What a frame leaves of a slot -/

/-- What no frame changes: the state with its lines, causes, credit and timer, the incarnation, the intake mode and the level
of the link. -/
def Slot.sameCore (sl sl' : Slot) : Prop :=
  (sl'.state = sl.state ∧ sl'.resume = sl.resume ∧ sl'.fault = sl.fault ∧ sl'.pendingFault = sl.pendingFault ∧
    sl'.effCredit = sl.effCredit ∧ sl'.incarnation = sl.incarnation ∧ sl'.timer = sl.timer) ∧
  sl'.pwrEn = sl.pwrEn ∧ sl'.linkEn = sl.linkEn ∧ sl'.removeOk = sl.removeOk ∧ sl'.linkUp = sl.linkUp ∧
    sl'.intake = sl.intake

/-- The slot's queue takes requests in translated and fence intake alone. -/
def Slot.queueing (sl : Slot) : Prop := sl.intake = .translated ∨ sl.intake = .fence

theorem Slot.sameCore.trans {a b c : Slot} (h : a.sameCore b) (k : b.sameCore c) : a.sameCore c := by
  simp only [Slot.sameCore] at h k ⊢
  simp_all

theorem Slot.regrant_core (sl : Slot) : sl.sameCore sl.regrant := by
  unfold Slot.regrant
  split <;> simp [Slot.sameCore]

@[simp] theorem Slot.regrant_ingress (sl : Slot) : sl.regrant.ingress = sl.ingress := by
  unfold Slot.regrant; split <;> rfl

@[simp] theorem Slot.regrant_partly (sl : Slot) : sl.regrant.partly = sl.partly := by
  unfold Slot.regrant; split <;> rfl

/-- A slot that keeps its invariants has its places. -/
theorem Slot.fits_of_ok {sl : Slot} (hok : sl.ok = true) : sl.fits := by
  simp only [Slot.ok, Bool.and_eq_true, Slot.placesOk_iff] at hok
  exact hok.2.1

/-- A slot whose core stands keeps its invariants with its places, its queue growing in the states that carry traffic. -/
theorem Slot.ok_of_core {sl sl' : Slot} (hok : sl.ok = true) (hcore : sl.sameCore sl') (hfits : sl.fits → sl'.fits)
    (hq : sl'.ingress = sl.ingress ∨ sl.queueing) : sl'.ok = true := by
  have hold := Slot.fits_of_ok hok
  have hnew := hfits hold
  have hoff := @Slot.fits_of_linkEn_false sl'
  rw [Slot.ok_iff] at hok ⊢
  obtain ⟨⟨hst, hres, hfault, hpend, hcr, -, htimer⟩, hpwr, hen, hrem, hup, hin⟩ := hcore
  simp only [Slot.queueing] at hq
  rw [hst]
  cases hcase : sl.state <;> simp [hcase, hres, hfault, hpend, hcr, htimer, hpwr, hen, hrem, hup, hin] at hok hoff ⊢ <;>
    grind

/-- A free place for a request that holds one: the queue and the partly received frame leave it. -/
def Slot.room (sl : Slot) (k : Nat) : Prop :=
  sl.ingress.length + sl.partlyPlaces + k ≤ 8 ∧ (sl.linkUp = true → sl.linkEn = true) ∧
    (sl.linkUp = false → sl.placesOpen = 0 ∧ sl.partly = none)

theorem Slot.fits.room {sl : Slot} (h : sl.fits) : sl.room 0 := ⟨by have := h.1; omega, h.2⟩

/-- Every free place granted again leaves the places eight. -/
theorem Slot.regrant_fits {sl : Slot} (hroom : sl.room 0) (hq : sl.queueing) : sl.regrant.fits := by
  obtain ⟨hlen, hup, hdown⟩ := hroom
  unfold Slot.regrant
  split
  · rename_i hopen
    refine ⟨?_, hup, fun hlow => absurd (hopen.1.symm.trans hlow) (by simp)⟩
    simp only [Slot.partlyPlaces] at hlen ⊢
    omega
  · rename_i hno
    have hlow : sl.linkUp = false := by
      rcases hcase : sl.linkUp with _ | _
      · rfl
      · exact absurd ⟨hcase, hq⟩ hno
    refine ⟨?_, hup, hdown⟩
    rw [(hdown hlow).1]
    omega

/-- A slot's record taken to `f` of it where a frame leaves the core. -/
theorem keepsTraffic_modSlot_of_core {s : State} {n : SlotId} {f : Slot → Slot} (hcore : (s.slot n).sameCore (f (s.slot n)))
    (hfits : (s.slot n).fits → (f (s.slot n)).fits) (hq : (f (s.slot n)).ingress = (s.slot n).ingress ∨ (s.slot n).queueing) :
    keepsTraffic s (s.modSlot n f) :=
  keepsTraffic_modSlot (fun hok => Slot.ok_of_core hok hcore hfits hq) (.inr (.inr hcore.1.1)) hcore.1.2.2.2.2.1
    hcore.1.2.2.2.2.2.1 fun hv => hcore.1.1 ▸ hv

/-- A change of what neither the core nor the places read. -/
theorem keepsTraffic_modSlot_of_rest {s : State} {n : SlotId} {f : Slot → Slot}
    (hcore : (s.slot n).sameCore (f (s.slot n))) (hin : (f (s.slot n)).ingress = (s.slot n).ingress)
    (hopen : (f (s.slot n)).placesOpen = (s.slot n).placesOpen) (hpart : (f (s.slot n)).partly = (s.slot n).partly) :
    keepsTraffic s (s.modSlot n f) := by
  refine keepsTraffic_modSlot_of_core hcore (fun h => ?_) (.inl hin)
  obtain ⟨-, -, hen, -, hup, -⟩ := hcore
  simpa only [Slot.fits, Slot.partlyPlaces, hin, hopen, hpart, hup, hen] using h

/-- A change that grants the free places again, the queue and the partly received frame left. -/
theorem keepsTraffic_modSlot_regrant {s : State} {n : SlotId} {f : Slot → Slot} (hq : (s.slot n).queueing)
    (hcore : (s.slot n).sameCore (f (s.slot n))) (hroom : (s.slot n).fits → (f (s.slot n)).room 0) :
    keepsTraffic s (s.modSlot n fun sl => (f sl).regrant) :=
  keepsTraffic_modSlot_of_core (hcore.trans (Slot.regrant_core _))
    (fun h => Slot.regrant_fits (hroom h) (by rw [Slot.queueing, hcore.2.2.2.2.2]; exact hq)) (.inr hq)

/-! ## Frames -/

theorem State.protocolError_keepsTraffic {s : State} {n : SlotId} (hq : (s.slot n).queueing) :
    keepsTraffic s (s.modSlot n Slot.protocolError) :=
  keepsTraffic_modSlot_regrant hq (by simp [Slot.sameCore, Slot.count]) fun h => h.room

theorem State.violation_keepsTraffic {s : State} {n : SlotId} (kind h c) (hq : (s.slot n).queueing) :
    keepsTraffic s (s.violation n kind h c) := by
  have hmod : keepsTraffic s (s.modSlot n fun sl => (sl.count Counters.addViolation).regrant) :=
    keepsTraffic_modSlot_regrant hq (by simp [Slot.sameCore, Slot.count]) fun h => h.room
  unfold State.violation
  dsimp only
  split
  · exact hmod.trans (State.postEvent_keepsTraffic _ _)
  · exact hmod

/-- A DATA frame handed to the link. -/
theorem State.sendData_keepsTraffic (s : State) (n : SlotId) (f : DataFrame) :
    keepsTraffic s (s.modSlot n fun sl => sl.sendData f) :=
  keepsTraffic_modSlot_of_rest (by simp [Slot.sameCore, Slot.sendData]) rfl rfl rfl

/-- A request that joins the queue in the place it holds. -/
theorem Slot.room_append {sl : Slot} (h : sl.room 1) (i : IngressEntry) (tags : Vector Bool 16) :
    ({ sl with tags := tags, ingress := sl.ingress ++ [i] } : Slot).room 0 := by
  obtain ⟨hlen, hup, hdown⟩ := h
  refine ⟨?_, hup, hdown⟩
  simp only [Slot.partlyPlaces, List.length_append, List.length_cons, List.length_nil] at hlen ⊢
  omega

theorem State.admitRead_keepsTraffic {s : State} {n : SlotId} (f : ReadFrame) (hq : (s.slot n).queueing)
    (hroom : (s.slot n).fits → (s.slot n).room 1) : keepsTraffic s (s.admitRead n f) := by
  unfold State.admitRead
  dsimp only
  split
  · exact State.protocolError_keepsTraffic hq
  split
  · exact State.protocolError_keepsTraffic hq
  split
  · exact keepsTraffic_modSlot_regrant hq (by simp [Slot.sameCore, Slot.count, Slot.sendData]) fun h => h.room
  split
  · refine (State.sendData_keepsTraffic s n _).trans (State.violation_keepsTraffic _ _ _ ?_)
    simpa [Slot.queueing, Slot.sendData] using hq
  · exact keepsTraffic_modSlot_regrant hq (by simp [Slot.sameCore]) fun h => Slot.room_append (hroom h) _ _

theorem State.admitWrite_keepsTraffic {s : State} {n : SlotId} (f : WriteFrame) (hq : (s.slot n).queueing)
    (hroom : (s.slot n).fits → (s.slot n).room 1) : keepsTraffic s (s.admitWrite n f) := by
  unfold State.admitWrite
  dsimp only
  split
  · exact State.protocolError_keepsTraffic hq
  split
  · exact keepsTraffic_modSlot_regrant hq (by simp [Slot.sameCore, Slot.count]) fun h => h.room
  split
  · exact State.violation_keepsTraffic _ _ _ hq
  · exact keepsTraffic_modSlot_regrant hq (by simp [Slot.sameCore]) fun h => Slot.room_append (hroom h) _ _

/-- An open place is a free place. -/
theorem Slot.fits.room_of_open {sl : Slot} (h : sl.fits) (hopen : sl.placesOpen ≠ 0) : sl.room 1 :=
  ⟨by have := h.1; omega, h.2⟩

/-- The place of the partly received frame is free once the frame has ended. -/
theorem Slot.fits.room_of_partly {sl : Slot} (h : sl.fits) (hheld : sl.partly.isSome = true ∨ sl.placesOpen ≠ 0) :
    ({ sl with partly := none } : Slot).room 1 := by
  obtain ⟨hlen, hup, hdown⟩ := h
  refine ⟨?_, hup, fun hlow => ⟨(hdown hlow).1, rfl⟩⟩
  simp only [Slot.partlyPlaces] at hlen ⊢
  rcases hheld with hheld | hheld
  · simp only [hheld, if_true] at hlen
    simp; omega
  · simp; omega

/-- The places that the probe checker leaves: none, or the one place again. -/
def Slot.probed (sl sl' : Slot) : Prop :=
  sl.sameCore sl' ∧ sl'.ingress = sl.ingress ∧ sl'.partly = none ∧ sl'.placesOpen ≤ 1

theorem Slot.glitch_probed (sl : Slot) (limit : Nat) : sl.probed (sl.glitch limit) := by
  refine ⟨by simp [Slot.sameCore, Slot.glitch], rfl, rfl, ?_⟩
  simp only [Slot.glitch]
  split <;> omega

theorem Slot.comparePattern_probed (sl : Slot) (expected v : Beat) : sl.probed (sl.comparePattern expected v) := by
  unfold Slot.comparePattern
  split
  · exact ⟨by simp [Slot.sameCore], rfl, rfl, le_rfl⟩
  · exact ⟨by simp [Slot.sameCore], rfl, rfl, Nat.zero_le _⟩

theorem Slot.examine_probed (sl : Slot) (limit : Nat) (c : Option Beat) : sl.probed (sl.examine limit c) := by
  unfold Slot.examine
  split
  · exact sl.glitch_probed limit
  · split
    · exact sl.comparePattern_probed _ _
    split
    · exact sl.comparePattern_probed _ _
    · exact ⟨by simp [Slot.sameCore, Slot.compareKey], rfl, rfl, Nat.zero_le _⟩

/-- A frame examined against a place it holds leaves the places eight. -/
theorem Slot.probed.fits {sl sl' : Slot} (h : sl.probed sl') (hroom : sl.room 1) (hup : sl.linkUp = true) : sl'.fits := by
  obtain ⟨⟨-, -, hen', -, hup', -⟩, hin, hpart, hopen⟩ := h
  obtain ⟨hlen, hen, -⟩ := hroom
  refine ⟨?_, fun _ => hen' ▸ hen hup, fun hlow => ?_⟩
  · rw [hin]
    simp only [Slot.partlyPlaces, hpart] at hlen ⊢
    simp; omega
  · rw [hup', hup] at hlow
    cases hlow

/-- A slot with a place or a partly received frame has its link up. -/
theorem Slot.fits.linkUp_of_place {sl : Slot} (h : sl.fits) (hheld : sl.partly.isSome = true ∨ sl.placesOpen ≠ 0) :
    sl.linkUp = true := by
  cases hup : sl.linkUp
  · obtain ⟨hopen, hpart⟩ := h.2.2 hup
    simp [hopen, hpart] at hheld
  · rfl

theorem State.takeRead_keepsTraffic (s : State) (n : SlotId) (f : ReadFrame) : keepsTraffic s (s.takeRead n f) := by
  have hcount : keepsTraffic s (s.modSlot n fun sl => sl.count Counters.addProtocol) :=
    keepsTraffic_modSlot_of_rest (by simp [Slot.sameCore, Slot.count]) rfl rfl rfl
  unfold State.takeRead
  dsimp only
  split
  · exact keepsTraffic_refl s
  · exact keepsTraffic_modSlot_of_rest (by simp [Slot.sameCore]) rfl rfl rfl
  · split
    · exact hcount
    · rename_i hopen
      have hprobe := (s.slot n).glitch_probed s.params.glitchLimit
      exact keepsTraffic_modSlot_of_core hprobe.1
        (fun h => hprobe.fits (h.room_of_open hopen) (h.linkUp_of_place (.inr hopen))) (.inl hprobe.2.1)
  all_goals
    rename_i hin
    split
    · exact hcount
    · rename_i hopen
      exact State.admitRead_keepsTraffic f (by simp [Slot.queueing, hin]) fun h => h.room_of_open hopen

theorem State.endWrite_keepsTraffic {s : State} {n : SlotId} (f : WriteFrame)
    (hin : (s.slot n).intake = .probe ∨ (s.slot n).queueing)
    (hheld : (s.slot n).partly.isSome = true ∨ (s.slot n).placesOpen ≠ 0) : keepsTraffic s (s.endWrite n f) := by
  have hfree : keepsTraffic s (s.modSlot n fun sl => { sl with partly := none }) := by
    refine keepsTraffic_modSlot_of_core (by simp [Slot.sameCore]) (fun h => ?_) (.inl rfl)
    refine ⟨?_, h.2.1, fun hlow => ⟨(h.2.2 hlow).1, rfl⟩⟩
    have := h.1
    simp only [Slot.partlyPlaces, Option.isSome_none] at this ⊢
    simp; omega
  intro hs
  have hfits := Slot.fits_of_ok (hs n).1
  have hroom := hfits.room_of_partly hheld
  refine keepsTraffic.trans hfree ?_ hs
  unfold State.endWrite
  dsimp only
  split
  · have hprobe := Slot.examine_probed { s.slot n with partly := none } s.params.glitchLimit (probeCandidate f)
    refine keepsTraffic_modSlot_of_core (by rw [State.modSlot_slot_self]; exact hprobe.1) (fun _ => ?_) (.inl ?_)
    · rw [State.modSlot_slot_self]
      exact hprobe.fits hroom (hfits.linkUp_of_place hheld)
    · rw [State.modSlot_slot_self]; exact hprobe.2.1
  · rename_i hp
    refine State.admitWrite_keepsTraffic f ?_ fun _ => ?_
    · rw [State.modSlot_slot_self]; exact hin.resolve_left hp
    · rw [State.modSlot_slot_self]; exact hroom

theorem State.takeWrite_keepsTraffic (s : State) (n : SlotId) (f : WriteFrame) : keepsTraffic s (s.takeWrite n f) := by
  unfold State.takeWrite
  dsimp only
  split
  · exact keepsTraffic_refl s
  · exact keepsTraffic_modSlot_of_rest (by simp [Slot.sameCore]) rfl rfl rfl
  all_goals
    rename_i hin
    have hmode : (s.slot n).intake = .probe ∨ (s.slot n).queueing := by simp [Slot.queueing, hin]
    split
    · exact keepsTraffic_modSlot_of_rest (by simp [Slot.sameCore, Slot.count]) rfl rfl rfl
    split
    · rename_i h hpart
      exact State.endWrite_keepsTraffic _ hmode (.inl (by simp [hpart]))
    · split
      · exact keepsTraffic_modSlot_of_rest (by simp [Slot.sameCore, Slot.count]) rfl rfl rfl
      · rename_i hopen
        exact State.endWrite_keepsTraffic _ hmode (.inr hopen)

/-- A place taken by a frame that starts. -/
theorem State.takePlace_keepsTraffic {s : State} {n : SlotId} (h : FrameHeader) (hopen : (s.slot n).placesOpen ≠ 0)
    (hpart : (s.slot n).partly = none) :
    keepsTraffic s (s.modSlot n fun sl => { sl with placesOpen := sl.placesOpen - 1, partly := some h }) := by
  refine keepsTraffic_modSlot_of_core (by simp [Slot.sameCore]) (fun hfits => ?_) (.inl rfl)
  have hup := hfits.linkUp_of_place (.inr hopen)
  refine ⟨?_, hfits.2.1, fun hlow => absurd (hup.symm.trans hlow) (by simp)⟩
  have hlen := hfits.1
  simp only [Slot.partlyPlaces, hpart, Option.isSome_none, Option.isSome_some, if_true] at hlen ⊢
  simp at hlen
  omega

theorem State.takeStart_keepsTraffic (s : State) (n : SlotId) (h : FrameHeader) : keepsTraffic s (s.takeStart n h) := by
  unfold State.takeStart
  dsimp only
  split
  · exact keepsTraffic_refl s
  · exact keepsTraffic_modSlot_of_rest (by simp [Slot.sameCore]) rfl rfl rfl
  all_goals
    split
    · exact keepsTraffic_refl s
    rename_i hbusy
    split
    · exact keepsTraffic_modSlot_of_rest (by simp [Slot.sameCore]) rfl rfl rfl
    · rename_i hopen
      exact State.takePlace_keepsTraffic h hopen (by simpa using fun hp => hbusy (.inl hp))

theorem State.takeItem_keepsTraffic (s : State) (n : SlotId) (i : LinkItem) : keepsTraffic s (s.takeItem n i) := by
  cases i with
  | start h => exact s.takeStart_keepsTraffic n h
  | read f => exact s.takeRead_keepsTraffic n f
  | write f => exact s.takeWrite_keepsTraffic n f

theorem keepsTraffic_foldl {α : Type} (f : State → α → State) (hf : ∀ s a, keepsTraffic s (f s a)) (l : List α) (s : State) :
    keepsTraffic s (l.foldl f s) := by
  induction l generalizing s with
  | nil => exact keepsTraffic_refl s
  | cons a l ih => exact (hf s a).trans (ih _)

/-- Intake opens after steps on the slot alone that leave its queue, its partly received frame and its link (R64, R65). -/
theorem State.reopen_keepsTraffic_of {s0 s : State} {n : SlotId} {sl : Slot} (mode : Intake) (h : slotTurns n s0 s sl)
    (hst : (s0.slot n).state ≠ .empty)
    (hok : (s0.slot n).ok = true → (Slot.regrant { sl with intake := mode, heldBack := [] }).ok = true)
    (hentry : ∀ k, s.entry k = s0.entry k) (hcredit : sl.effCredit = (s0.slot n).effCredit)
    (hinc : sl.incarnation = (s0.slot n).incarnation) (hnv : sl.state ≠ .vacating) :
    keepsTraffic s0 (s.reopen n mode) := by
  refine keepsTraffic.trans ?_ (keepsTraffic_foldl _ (fun s i => s.takeItem_keepsTraffic n i) _ _)
  refine keepsTraffic_of_turns_of_entries (h.modSlot _) hok (.inr (.inl hst)) hentry fun _ _ => .inr ?_
  obtain ⟨⟨hst', -, -, -, hcr, hi, -⟩, -⟩ := Slot.regrant_core { sl with intake := mode, heldBack := [] }
  rw [State.modSlot_slot_self, h.1, hcr, hi, hst']
  exact ⟨hcredit.ge, hinc, fun hv => absurd hv hnv⟩

end Sys2Proof.Machine
end

section
/-! The steps between the traffic states, the losses of link and power and the ends of the drains keep the invariants of the
slots and of the credits (R14 to R24, R55, R56, R133 to R166). -/

namespace Sys2Proof.Machine

/-! ## Places granted again -/

theorem Slot.regrant_ok {sl : Slot} (hok : sl.ok = true) : sl.regrant.ok = true := by
  by_cases hq : sl.queueing
  · exact Slot.ok_of_core hok sl.regrant_core (fun h => Slot.regrant_fits h.room hq) (.inr hq)
  · have hsame : sl.regrant = sl := by
      unfold Slot.regrant
      exact if_neg fun h => hq h.2
    rwa [hsame]

/-! ## Entries given up -/

theorem State.orphan_keepsTraffic (s : State) (n : SlotId) (sel : AccessKind → Bool) : keepsTraffic s (s.orphan n sel) :=
  keepsTraffic_of_slots (fun m => by simp) (fun h => by simpa using h) fun k => by
    rw [State.orphan_entry]; exact Entry.eases_orphaned _ _ _ _

theorem State.freeWaiting_keepsTraffic (s : State) (n : SlotId) : keepsTraffic s (s.freeWaiting n) :=
  keepsTraffic_of_slots (fun m => by simp) (fun h => by simpa using h) fun k => by
    rw [State.freeWaiting_entry]
    split
    · exact Entry.eases_free _
    · exact Entry.eases_refl _

/-- What counts for a slot after all of one incarnation is given up is of another. -/
theorem Entry.incarnation_of_allGivenUp {e : Entry} {n : SlotId} {inc : Half} (h : (e.allGivenUp n inc).countsFor n = true) :
    (e.allGivenUp n inc).incarnation ≠ inc := by
  by_cases hw : e.who = .slot n ∧ e.incarnation = inc
  · rw [Entry.allGivenUp, if_pos hw] at h
    cases hst : e.state <;> simp [hst, Entry.countsFor, EntryState.inFlight, Entry.free] at h
  · rw [Entry.allGivenUp, if_neg hw] at h ⊢
    have hwho : e.who = .slot n := by
      rw [Entry.countsFor, Bool.and_eq_true, beq_iff_eq] at h
      exact h.2
    exact fun hinc => hw ⟨hwho, hinc⟩

/-- What counts for a slot after the writes of one incarnation are orphaned is a read, of another incarnation, or waits. -/
theorem Entry.of_orphaned_writes {e : Entry} {n : SlotId} {inc : Half}
    (h : (e.orphaned n inc isWrite).countsFor n = true) (hkeep : (e.orphaned n inc isWrite).keepsOk = true)
    (hkind : (e.orphaned n inc isWrite).kind = .write) : (e.orphaned n inc isWrite).incarnation ≠ inc := by
  unfold Entry.orphaned at h hkeep hkind ⊢
  split
  · rename_i hw
    simp [hw, Entry.countsFor, EntryState.inFlight] at h
  · rename_i hw
    rw [if_neg hw] at h hkeep hkind
    intro hinc
    rw [Entry.countsFor, Bool.and_eq_true, beq_iff_eq] at h
    refine hw ⟨h.2, hinc, ?_, by rw [hkind]; rfl⟩
    simp only [Entry.keepsOk, hkind, reduceCtorEq, decide_false, Bool.false_or, Bool.and_eq_true, decide_eq_true_eq] at hkeep
    have hin := h.1
    cases hst : e.state <;> simp_all [EntryState.inFlight, EntryState.outstanding]

/-! ## Credit (R14, R55, R56) -/

/-- A slot that goes LIVE keeps both invariants where its credit does not fall, or nothing of it counts. -/
theorem State.goLive_keepsTraffic_of {s0 s : State} {n : SlotId} {sl : Slot} (credit : Nat) (h : slotTurns n s0 s sl)
    (hst : (s0.slot n).state ≠ .empty)
    (hok : (s0.slot n).ok = true → sl.linked .translated ∧ sl.plain) (hentry : ∀ k, s.entry k = s0.entry k)
    (hcredit : s0.creditsOk → s0.slotsOk → (∀ k, (s0.entry k).countsFor n = false) ∨ (s0.slot n).effCredit ≤ credit)
    (hinc : sl.incarnation = (s0.slot n).incarnation) : keepsTraffic s0 (s.goLive n credit) := by
  refine keepsTraffic_of_turns_of_entries ((h.modSlot _).postEvent _) (fun hk => ?_) (.inr (.inl hst)) hentry fun hc hs => ?_
  · obtain ⟨hlinked, hplain⟩ := hok hk
    simp [Slot.ok_iff] at hlinked hplain ⊢
    tauto
  · rcases hcredit hc hs with hnone | hle
    · exact .inl fun k => by rw [State.goLive, State.postEvent_entry, State.modSlot_entry, hentry k]; exact hnone k
    · refine .inr ?_
      simp only [State.goLive, State.postEvent_slot, State.modSlot_slot_self, h.1]
      exact ⟨hle, hinc, fun hv => by cases hv⟩

theorem State.rampStep_keepsTraffic {s : State} {n : SlotId} (hst : (s.slot n).state = .settling) :
    keepsTraffic s (s.rampStep n) := by
  unfold State.rampStep
  dsimp only
  split
  · refine State.goLive_keepsTraffic_of _ ⟨rfl, fun _ _ => rfl, rfl⟩ (by simp [hst]) (fun hok => ?_) (fun _ => rfl)
      (fun _ _ => .inr (Nat.le_succ _)) rfl
    rw [Slot.ok_iff, hst] at hok
    exact ⟨hok.1, hok.2.1⟩
  · refine keepsTraffic_of_turns_of_entries (slotTurns_modSlot n s _) (fun hok => ?_) (.inr (.inl (by simp [hst])))
      (fun _ => rfl) fun _ _ => .inr ?_
    · rw [Slot.ok_iff, hst] at hok
      simp [Slot.ok_iff, hst, Slot.fits] at hok ⊢
      tauto
    · simp [hst]

/-- The record of a slot that enters SETTLING (R55). -/
def Slot.settling (sl : Slot) (timer : SlotTimer) : Slot :=
  Slot.regrant { sl with state := .settling, effCredit := 1, intake := .translated, outcome := none, timer := timer }

theorem Slot.settling_ok {sl : Slot} {timer : SlotTimer} (hok : sl.ok = true) (hst : sl.state = .probing)
    (ht : timer ≠ .stopped) : (sl.settling timer).ok = true := by
  refine Slot.regrant_ok ?_
  rw [Slot.ok_iff, hst] at hok
  simp [Slot.ok_iff, Slot.fits, Slot.partlyPlaces] at hok ⊢
  tauto

theorem State.settle_keepsTraffic {s : State} {n : SlotId} (hst : (s.slot n).state = .probing) :
    keepsTraffic s (s.settle n) := by
  have hturn := slotTurns_modSlot n s fun sl => sl.settling (.running s.now (s.params.rampStep * 10))
  have hok := fun hok => Slot.settling_ok (timer := .running s.now (s.params.rampStep * 10)) hok hst (by simp)
  have hnone := fun hc hs => State.countsFor_of_noCredit (s := s) (n := n) (by simp [hst, SlotState.noCredit]) hc hs
  have hstate : ((s.slot n).settling (.running s.now (s.params.rampStep * 10))).state = .settling :=
    (Slot.regrant_core _).1.1
  have hinc : ((s.slot n).settling (.running s.now (s.params.rampStep * 10))).incarnation = (s.slot n).incarnation :=
    (Slot.regrant_core _).1.2.2.2.2.2.1
  unfold State.settle
  dsimp only
  split
  · refine State.goLive_keepsTraffic_of _ hturn (by simp [hst]) (fun hk => ?_) (fun _ => rfl)
      (fun hc hs => .inl (hnone hc hs)) hinc
    have h := hok hk
    rw [Slot.ok_iff, hstate] at h
    exact ⟨h.1, h.2.1⟩
  · exact keepsTraffic_of_turns_of_entries hturn hok (.inr (.inl (by simp [hst]))) (fun _ => rfl)
      fun hc hs => .inl (hnone hc hs)

/-! ## Holds (R135, R136, R138) -/

theorem State.completeHold_keepsTraffic {s : State} {n : SlotId} (hst : (s.slot n).state = .holding) :
    keepsTraffic s (s.completeHold n) := by
  refine (keepsTraffic_modSlot (fun hok => ?_) (.inr (.inl (by simp [hst]))) rfl rfl (by simp)).trans
    (State.postEvent_keepsTraffic _ _)
  rw [Slot.ok_iff, hst] at hok
  simp [Slot.ok_iff, Slot.fits, Slot.partlyPlaces] at hok ⊢
  tauto

theorem State.settleHolding_keepsTraffic {s : State} {n : SlotId} (hst : (s.slot n).state = .holding) :
    keepsTraffic s (s.settleHolding n) := by
  unfold State.settleHolding
  split
  · exact State.completeHold_keepsTraffic hst
  · exact keepsTraffic_refl s

/-- A HOLDING or HELD slot opens its intake and is LIVE (R136, R138). -/
theorem Slot.reopened_ok {sl : Slot} {timer : SlotTimer} (hok : sl.ok = true) (hst : sl.state = .holding ∨ sl.state = .held)
    (ht : sl.timer = .stopped → timer = .stopped) (hs : sl.state = .holding → timer = .stopped) :
    (Slot.regrant { sl with state := .live, timer := timer, intake := .translated, heldBack := [] }).ok = true := by
  refine Slot.regrant_ok ?_
  rw [Slot.ok_iff] at hok
  rcases hst with hst | hst <;> simp [hst, Slot.ok_iff, Slot.fits, Slot.partlyPlaces] at hok hs ⊢ <;> tauto

theorem State.failHold_keepsTraffic {s : State} {n : SlotId} (hst : (s.slot n).state = .holding) :
    keepsTraffic s (s.failHold n) := by
  have hreopen := State.reopen_keepsTraffic_of .translated
    (slotTurns_modSlot n s fun sl => { sl with state := .live, timer := .stopped }) (by simp [hst])
    (fun hok => Slot.reopened_ok (sl := s.slot n) hok (.inl hst) (fun _ => rfl) fun _ => rfl) (fun _ => rfl) rfl rfl (by simp)
  exact hreopen.trans (State.postEvent_keepsTraffic _ _)

/-! ## Retirement (R20, R139, R164) -/

/-- A traffic slot fenced (R139). -/
theorem Slot.fenced_ok {sl : Slot} (now limit : Nat) (hok : sl.ok = true) (hst : sl.state.traffic = true) :
    (Slot.regrant { sl.toRetiring none now limit with intake := .fence, heldBack := [] }).ok = true := by
  refine Slot.regrant_ok ?_
  obtain ⟨hrem, hfault, -, hpwr, hen, hfits⟩ := Slot.carries_of_ok hok (.inl hst)
  simp only [Slot.fits, Slot.partlyPlaces] at hfits
  simp [Slot.ok_iff, Slot.toRetiring, Slot.fits, Slot.partlyPlaces, hrem, hfault, hpwr, hen]
  exact ⟨hfits.1, hfits.2.2⟩

theorem State.fence_keepsTraffic {s : State} {n : SlotId} (hst : (s.slot n).state.traffic = true) :
    keepsTraffic s (if (s.toRetiring n none).drained n = true then (s.toRetiring n none).endDrain n
      else (s.toRetiring n none).reopen n .fence) := by
  have hne : (s.slot n).state ≠ .empty := fun he => by simp [he, SlotState.traffic] at hst
  split
  · rename_i hd
    obtain ⟨hin, hnone⟩ := State.of_drained hd
    refine State.endDrain_keepsTraffic_of (slotTurns_modSlot n s _) hne (fun hok => ?_)
      (by simpa [State.toRetiring] using hin) (fun k => Entry.eases_refl _) fun _ _ => hnone
    obtain ⟨hrem, hfault, -⟩ := Slot.carries_of_ok hok (.inl hst)
    exact Slot.toRetiring_draining _ _ _ hrem hfault
  · exact State.reopen_keepsTraffic_of .fence (slotTurns_modSlot n s _) hne (fun hok => Slot.fenced_ok _ _ hok hst)
      (fun _ => rfl) rfl rfl (by simp [Slot.toRetiring])

theorem State.retireSlot_keepsTraffic (s : State) (n : SlotId) : keepsTraffic s (s.retireSlot n) := by
  have hretire : (s.slot n).state.beforeTraffic → keepsTraffic s (((s.shutDown n).modSlot n Slot.toRetired).postEvent
      (.retired n (s.slot n).incarnation false 0)) := fun hst => by
    refine (shutsDown_of s n Slot.toRetired _).keepsTraffic (fun hok => ?_) (SlotState.noCredit_of_beforeTraffic hst).2
      (State.countsFor_of_noCredit (SlotState.noCredit_of_beforeTraffic hst).1)
    obtain ⟨hin, hres, hfault, -⟩ := Slot.clear_of_beforeTraffic hok hst
    exact Slot.toRetired_ok hin hres hfault
  unfold State.retireSlot
  split
  case h_1 | h_2 | h_3 | h_4 => rename_i hst; exact hretire (by simp [hst, SlotState.beforeTraffic])
  case h_5 | h_6 | h_7 | h_8 => rename_i hst; exact State.fence_keepsTraffic (by simp [hst, SlotState.traffic])
  case h_9 =>
    rename_i hst
    exact State.toRetiring_linkDownDrain_keepsTraffic none ⟨rfl, fun _ _ => rfl, rfl⟩ (.inr hst) (fun _ => rfl)
      ⟨rfl, rfl, rfl, rfl, rfl⟩
  all_goals exact keepsTraffic_refl s

/-! ## Forced ends (R143, R150) -/

theorem State.forceDrain_keepsTraffic {s : State} {n : SlotId} (hst : (s.slot n).state = .retiring) :
    keepsTraffic s (s.forceDrain n) := by
  have hbase : keepsTraffic s (s.modSlot n fun sl => sl.discardWrites.discardReads) := by
    refine keepsTraffic_modSlot (fun hok => ?_) (.inr (.inr rfl)) rfl rfl id
    have hlen : (s.slot n).discardWrites.discardReads.ingress.length ≤ (s.slot n).ingress.length :=
      (List.length_filter_le _ _).trans (List.length_filter_le _ _)
    have hst' : (s.slot n).discardWrites.discardReads.state = .retiring := hst
    rw [Slot.ok_iff, hst] at hok
    rw [Slot.ok_iff, hst']
    obtain ⟨hpwr, hin, ⟨hfit, hup⟩, hrest⟩ := hok
    exact ⟨hpwr, hin, ⟨(Nat.add_le_add_right (Nat.add_le_add_right hlen _) _).trans hfit, hup⟩, hrest⟩
  have hkeep := ((hbase.trans (State.orphan_keepsTraffic _ n fun _ => true)).trans
    (State.freeWaiting_keepsTraffic _ n)).trans
      (keepsTraffic_modSlot_of_rest (n := n) (f := fun sl => { sl with forced := true, holdList := [] }) (by simp [Slot.sameCore])
        rfl rfl rfl)
  refine hkeep.trans (State.endDrain_keepsTraffic_of ⟨rfl, fun _ _ => rfl, rfl⟩ ?_ (fun hok => ?_) ?_
    (fun _ => Entry.eases_refl _) fun hc _ k => ?_)
  · simp [Slot.discardWrites, Slot.discardReads, hst]
  · exact Slot.draining_of_ok hok (by simp [Slot.discardWrites, Slot.discardReads, hst])
  · simp only [State.modSlot_slot_self, State.freeWaiting_slot, State.orphan_slot, Slot.discardWrites, Slot.discardReads,
      List.filter_filter, List.filter_eq_nil_iff]
    intro q _
    cases q.body <;> simp
  · by_contra hcount
    rw [Bool.not_eq_false] at hcount
    have hinc := (hc.2 n).2.1 k hcount
    simp only [State.modSlot_entry, State.freeWaiting_entry, State.orphan_entry, State.modSlot_slot_self, State.orphan_slot,
      State.freeWaiting_slot, Entry.allGivenUp_eq] at hcount hinc
    exact Entry.incarnation_of_allGivenUp hcount hinc

theorem State.forceVacating_keepsTraffic {s : State} {n : SlotId} (hst : (s.slot n).state = .vacating) :
    keepsTraffic s (s.forceVacating n) := by
  intro hs
  have hwrites : queuedWritesOf (s.slot n).ingress = (s.slot n).ingress := by
    have hok := (hs n).1
    rw [Slot.ok_iff, hst] at hok
    exact hok.2.2.2.1
  have hnil : (s.slot n).discardWrites.ingress = [] := by
    rw [Slot.discardWrites, ← hwrites, queuedWritesOf, List.filter_filter]
    simp only [List.filter_eq_nil_iff]
    intro q _
    cases q.body <;> simp
  have hbase : keepsTraffic s (s.modSlot n fun sl => sl.discardWrites) := by
    refine keepsTraffic_modSlot (fun hok => ?_) (.inr (.inr rfl)) rfl rfl id
    have hst' : (s.slot n).discardWrites.state = .vacating := hst
    rw [Slot.ok_iff, hst] at hok
    rw [Slot.ok_iff, hst']
    obtain ⟨hpwr, hun, hplain, -, -, htimer⟩ := hok
    exact ⟨hpwr, hun, hplain, by rw [hnil]; rfl, by rw [hnil]; simp, htimer⟩
  have hkeep := (hbase.trans (State.orphan_keepsTraffic _ n isWrite)).trans
    (keepsTraffic_modSlot_of_rest (n := n) (f := fun sl => { sl with forced := true }) (by simp [Slot.sameCore]) rfl rfl rfl)
  refine hkeep.trans (State.endVacating_keepsTraffic ?_ ?_ fun hc _ k => ?_) hs
  · simp [Slot.discardWrites, hst]
  · simpa using hnil
  · by_contra hcount
    rw [Bool.not_eq_false] at hcount
    have hinc := (hc.2 n).2.1 k hcount
    have hkind := (hc.2 n).2.2 (by simp [Slot.discardWrites, hst]) k hcount
    have hkeeps := hc.1 k
    simp only [State.modSlot_entry, State.orphan_entry, State.modSlot_slot_self, State.orphan_slot] at hcount hinc hkind hkeeps
    exact Entry.of_orphaned_writes hcount hkeeps hkind hinc

/-! ## Power and link lost (R16, R18, R141, R157, R165, R166) -/

/-- The record under a power loss. -/
theorem slotTurns_isolate_powerOff (n : SlotId) (s : State) : slotTurns n s ((s.isolate n).powerOff n)
    { (s.slot n).isolated with pwrEn := false, sbdatLow := false } := by
  have h := (slotTurns_isolate n s).trans (slotTurns_powerOff n (s.isolate n))
  rwa [State.isolate_slot, if_pos rfl] at h

theorem State.losePower_keepsTraffic {s : State} {n : SlotId}
    (hst : (s.slot n).state.traffic = true ∨ (s.slot n).state = .grace) : keepsTraffic s (s.losePower n) :=
  State.toRetiring_linkDownDrain_keepsTraffic _ (slotTurns_isolate_powerOff n s) hst (fun k => by simp)
    ⟨rfl, rfl, rfl, rfl, rfl⟩

/-- The queue of a RETIRING slot. -/
theorem Slot.length_le_of_ok {sl : Slot} (hok : sl.ok = true) : sl.ingress.length ≤ 8 := (Slot.fits_of_ok hok).length_le

theorem State.losePowerRetiring_keepsTraffic {s : State} {n : SlotId} (hst : (s.slot n).state = .retiring) :
    keepsTraffic s (s.losePowerRetiring n) := by
  refine State.linkDownDrain_keepsTraffic_of ((slotTurns_isolate_powerOff n s).modSlot _) (by simp [hst])
    (fun hok => ?_) (fun hok => Slot.length_le_of_ok (sl := s.slot n) hok) (fun k => by simp) rfl rfl fun _ => ?_
  · obtain ⟨h1, h2, h3, h4, h5⟩ := Slot.draining_of_ok hok hst
    exact ⟨h1, h2, h3, h4, h5⟩
  · simp [Slot.isolated, Slot.loseLink, Slot.discardPartly, hst]

theorem State.linkDownDrain_keepsTraffic {s : State} {n : SlotId} (hst : (s.slot n).state = .retiring) :
    keepsTraffic s (s.linkDownDrain n) :=
  State.linkDownDrain_keepsTraffic_of ⟨rfl, fun _ _ => rfl, rfl⟩ (by simp [hst]) (fun hok => Slot.draining_of_ok hok hst)
    (fun hok => Slot.length_le_of_ok hok) (fun _ => rfl) rfl rfl fun _ => by simp [hst]

theorem State.enterGrace_keepsTraffic {s : State} {n : SlotId} (hst : (s.slot n).state.traffic = true) :
    keepsTraffic s (s.enterGrace n) := by
  refine (keepsTraffic_modSlot (fun hok => ?_) (.inr (.inl ?_)) rfl rfl (by simp)).trans (State.postEvent_keepsTraffic _ _)
  · have hlen := Slot.length_le_of_ok hok
    rw [Slot.ok_iff] at hok
    cases hcase : (s.slot n).state <;> simp [hcase, SlotState.traffic] at hst <;>
      simp [hcase, Slot.ok_iff, Slot.fits, Slot.partlyPlaces, Slot.loseLink, Slot.discardPartly, SlotState.traffic,
        intakeOf, hlen] at hok ⊢ <;> tauto
  · intro he
    simp [he, SlotState.traffic] at hst

theorem State.loseLinkForGood_keepsTraffic {s : State} {n : SlotId} (hst : (s.slot n).state.traffic = true) :
    keepsTraffic s (s.loseLinkForGood n) :=
  State.toRetiring_linkDownDrain_keepsTraffic _ ((slotTurns_modSlot n s Slot.loseLink).postEvent _) (.inl hst)
    (fun _ => rfl) ⟨rfl, rfl, rfl, rfl, rfl⟩

theorem State.linkDown_keepsTraffic (s : State) (n : SlotId) : keepsTraffic s (s.linkDown n) := by
  unfold State.linkDown
  split
  · exact keepsTraffic_refl s
  split
  case h_1 => rename_i hst; exact State.faultSlot_keepsTraffic _ (by simp [hst, SlotState.beforeTraffic])
  case h_2 | h_3 | h_4 | h_5 =>
    rename_i hst
    have ht : (s.slot n).state.traffic = true := by simp [hst, SlotState.traffic]
    split
    · exact State.loseLinkForGood_keepsTraffic ht
    · exact State.enterGrace_keepsTraffic ht
  case h_6 => rename_i hst; exact State.linkDownDrain_keepsTraffic hst
  all_goals exact keepsTraffic_refl s

/-! ## The link up again (R45, R123, R160) -/

/-- A held answer handed over changes what the link was handed and the tags alone. -/
theorem State.deliverOne_slot (s : State) (n : SlotId) (k : MemTag) :
    (s.deliverOne n k).slot n =
      { s.slot n with dataOut := ((s.deliverOne n k).slot n).dataOut, tags := ((s.deliverOne n k).slot n).tags } := by
  unfold State.deliverOne
  dsimp only
  split
  · split <;> simp [Slot.sendData]
  all_goals rfl

theorem State.foldl_deliverOne_slot (n : SlotId) (ks : List MemTag) (s : State) :
    (ks.foldl (fun s t => s.deliverOne n t) s).slot n =
      { s.slot n with
        dataOut := ((ks.foldl (fun s t => s.deliverOne n t) s).slot n).dataOut
        tags := ((ks.foldl (fun s t => s.deliverOne n t) s).slot n).tags } := by
  induction ks generalizing s with
  | nil => rfl
  | cons k ks ih =>
    rw [List.foldl_cons, ih (s.deliverOne n k), State.deliverOne_slot]

/-- An answer that is given up. -/
theorem Entry.eases_unheld {e : Entry} (h : e.state ≠ .waiting) : e.eases { e with held := .none } :=
  ⟨fun _ => by simp [Entry.keepsOk, h], fun _ hc => ⟨hc, rfl, rfl⟩⟩

theorem State.deliverOne_keepsTraffic (s : State) (n : SlotId) (k : MemTag) : keepsTraffic s (s.deliverOne n k) := by
  unfold State.deliverOne
  dsimp only
  split
  · split
    · exact (State.sendData_keepsTraffic s n _).trans (State.freeEntry_keepsTraffic _ k)
    · rename_i hst
      exact (State.sendData_keepsTraffic s n _).trans (State.setEntry_keepsTraffic _ (Entry.eases_unheld hst))
  all_goals exact keepsTraffic_refl s

theorem State.deliverHeld_keepsTraffic (s : State) (n : SlotId) : keepsTraffic s (s.deliverHeld n) :=
  (keepsTraffic_foldl _ (fun s t => s.deliverOne_keepsTraffic n t) _ _).trans
    (keepsTraffic_modSlot_of_rest (by simp [Slot.sameCore]) rfl rfl rfl)

/-- What a delivery leaves of the slot. -/
theorem State.deliverHeld_slot (s : State) (n : SlotId) :
    (s.deliverHeld n).slot n =
      { s.slot n with
        dataOut := ((s.deliverHeld n).slot n).dataOut, tags := ((s.deliverHeld n).slot n).tags, holdList := [] } := by
  unfold State.deliverHeld
  rw [State.modSlot_slot_self, State.foldl_deliverOne_slot]

/-- A slot back in its resume state. -/
theorem Slot.recovered_ok {sl : Slot} {back : SlotState} (now : Nat) (p : Params) (hok : sl.ok = true)
    (hst : sl.state = .grace) (hres : sl.resume = some back) (hlow : sl.linkUp = false) :
    (Slot.regrant { sl with state := back, resume := none, linkUp := true, timer := resumeTimer back now p }).ok = true := by
  refine Slot.regrant_ok ?_
  rw [Slot.ok_iff, hst] at hok
  obtain ⟨⟨back', hback, htraffic, hlinked⟩, hrest⟩ := hok
  obtain rfl : back' = back := by rw [hback] at hres; exact Option.some.inj hres
  cases back' <;> simp [SlotState.traffic] at htraffic <;>
    simp [Slot.ok_iff, Slot.fits, Slot.partlyPlaces, resumeTimer, intakeOf, hlow] at hlinked hrest ⊢ <;> grind

theorem State.recover_keepsTraffic {s : State} {n : SlotId} {back : SlotState} (hst : (s.slot n).state = .grace)
    (hres : (s.slot n).resume = some back) (hlow : (s.slot n).linkUp = false) : keepsTraffic s (s.recover n back) := by
  have hsl := s.deliverHeld_slot n
  have hback : keepsTraffic (s.deliverHeld n) ((s.deliverHeld n).modSlot n fun sl => Slot.regrant
      { sl with state := back, resume := none, linkUp := true, timer := resumeTimer back s.now s.params }) := by
    intro hs
    have hnv : back ≠ .vacating := by
      have hok := (hs n).1
      rw [hsl, Slot.ok_iff] at hok
      simp only [hst, Slot.asIn] at hok
      obtain ⟨⟨b, hb, htraffic, -⟩, -⟩ := hok
      obtain rfl : b = back := by rw [hb] at hres; exact Option.some.inj hres
      rintro rfl
      simp [SlotState.traffic] at htraffic
    obtain ⟨⟨hst', -, -, -, hcr, hinc, -⟩, -⟩ := Slot.regrant_core
      { (s.deliverHeld n).slot n with
        state := back, resume := none, linkUp := true, timer := resumeTimer back s.now s.params }
    refine keepsTraffic_modSlot (fun hok => ?_) (.inr (.inl (by rw [hsl]; simp [hst]))) hcr hinc
      (fun hv => absurd (hst'.symm.trans hv) hnv) hs
    exact Slot.recovered_ok _ _ hok (by rw [hsl]; exact hst) (by rw [hsl]; exact hres) (by rw [hsl]; exact hlow)
  have hpost := ((State.deliverHeld_keepsTraffic s n).trans hback).trans (State.postEvent_keepsTraffic _
    (.linkRecovered n (s.slot n).incarnation back (s.slot n).holdList.length (s.heldTimeouts n)))
  unfold State.recover
  dsimp only
  split
  · rename_i hh
    refine hpost.trans (State.settleHolding_keepsTraffic ?_)
    rw [State.postEvent_slot, State.modSlot_slot_self]
    exact (Slot.regrant_core _).1.1.trans hh
  · exact hpost

theorem State.linkUp_keepsTraffic (s : State) (n : SlotId) : keepsTraffic s (s.linkUp n) := by
  unfold State.linkUp
  dsimp only
  split
  · exact keepsTraffic_refl s
  rename_i hno
  simp only [not_or, Bool.not_eq_false, Bool.not_eq_true] at hno
  obtain ⟨hen, hlow⟩ := hno
  split
  case h_1 =>
    rename_i hst
    refine keepsTraffic_modSlot (fun hok => ?_) (.inr (.inr rfl)) rfl rfl id
    rw [Slot.ok_iff, hst] at hok
    simp [Slot.ok_iff, hst, Slot.fits, Slot.partlyPlaces, hlow] at hok ⊢
    grind
  case h_2 => rename_i hst hres; exact State.recover_keepsTraffic hst hres hlow
  all_goals exact keepsTraffic_refl s

end Sys2Proof.Machine
end

section
/-! Time, the slot lines, the expiries and the requests keep the invariants of the slots and of the credits. -/

namespace Sys2Proof.Machine

/-! ## Time and the management line (R30 to R35) -/

/-- A step that leaves the slots, the tracker and the ring state. -/
theorem keepsTraffic_of_frame {s t : State} (hslots : t.slots = s.slots) (htrk : t.trk = s.trk)
    (hring : t.ring.state = s.ring.state) : keepsTraffic s t :=
  keepsTraffic_of_eq (State.slot_of_slots_eq _ _ hslots) hring (State.entry_of_trk_eq _ _ htrk)

theorem State.nextJob_keepsTraffic (s : State) : keepsTraffic s s.nextJob :=
  keepsTraffic_of_frame (by simp) (by simp) (by simp)

theorem State.failJob_keepsTraffic (s : State) : keepsTraffic s s.failJob := by
  unfold State.failJob
  dsimp only
  split
  · exact keepsTraffic_refl s
  · refine keepsTraffic.trans ?_ (State.nextJob_keepsTraffic _)
    exact keepsTraffic_of_frame rfl rfl rfl
  · refine ((keepsTraffic_of_frame rfl rfl rfl).trans (State.identityOutcome_keepsTraffic { s with sb := s.sb.idle } _ none)).trans
      (State.nextJob_keepsTraffic _)

theorem State.succeedAccess_keepsTraffic (s : State) (data : Half) : keepsTraffic s (s.succeedAccess data) := by
  unfold State.succeedAccess
  dsimp only
  split
  · exact keepsTraffic_refl s
  · refine keepsTraffic.trans ?_ (State.nextJob_keepsTraffic _)
    exact keepsTraffic_of_frame rfl rfl rfl
  · split
    · exact keepsTraffic_of_frame rfl rfl rfl
    · exact ((keepsTraffic_of_frame rfl rfl rfl).trans
        (State.identityOutcome_keepsTraffic { s with sb := s.sb.idle } _ _)).trans (State.nextJob_keepsTraffic _)

theorem State.failAccess_keepsTraffic (s : State) : keepsTraffic s s.failAccess := by
  unfold State.failAccess
  split
  · exact keepsTraffic_of_frame rfl rfl rfl
  · exact s.failJob_keepsTraffic

theorem State.failOverdue_keepsTraffic (s : State) : keepsTraffic s s.failOverdue := by
  unfold State.failOverdue
  split
  case h_1 | h_2 =>
    split
    · exact s.failAccess_keepsTraffic
    · exact keepsTraffic_refl s
  all_goals exact keepsTraffic_refl s

theorem State.endFailed_keepsTraffic (s : State) : keepsTraffic s s.endFailed := by
  unfold State.endFailed
  split
  · exact s.failJob_keepsTraffic
  · exact keepsTraffic_refl s

/-- The level of a management line. -/
theorem State.line_keepsTraffic (s : State) (n : SlotId) (low : Bool) :
    keepsTraffic s (s.modSlot n fun sl => { sl with sbdatLow := low }) :=
  keepsTraffic_modSlot_of_rest (by simp [Slot.sameCore]) rfl rfl rfl

theorem State.sampleLine_keepsTraffic (s : State) : keepsTraffic s s.sampleLine := by
  unfold State.sampleLine
  split
  case h_1 =>
    split
    · exact (s.line_keepsTraffic _ false).trans (keepsTraffic_of_frame rfl rfl rfl)
    · exact keepsTraffic_of_frame rfl rfl rfl
  all_goals exact keepsTraffic_refl s

theorem State.tick_keepsTraffic (s : State) : keepsTraffic s s.tick := by
  refine keepsTraffic.trans ?_ (State.endFailed_keepsTraffic _)
  refine keepsTraffic.trans ?_ (keepsTraffic_of_frame (s := ({ s.failOverdue with now := s.now + 1 } : State).sampleLine)
    rfl rfl rfl)
  refine keepsTraffic.trans ?_ (State.sampleLine_keepsTraffic _)
  exact s.failOverdue_keepsTraffic.trans (keepsTraffic_of_frame rfl rfl rfl)

theorem State.elapse_keepsTraffic (k : Nat) (s : State) : keepsTraffic s (s.elapse k) := by
  induction k generalizing s with
  | zero => exact keepsTraffic_refl s
  | succ k ih => exact s.tick_keepsTraffic.trans (ih _)

theorem State.reach_keepsTraffic (s : State) (t : Nat) : keepsTraffic s (s.reach t) := s.elapse_keepsTraffic _

/-- Time changes the state of no slot but one in IDENTIFYING. -/
theorem State.reach_slot_state {s : State} {n : SlotId} (t : Nat) (h : (s.slot n).state ≠ .identifying) :
    ((s.reach t).slot n).state = (s.slot n).state := by
  obtain ⟨⟨-, -, -, -, -, -, hslot⟩, -⟩ := s.reach_passesTime t
  rw [hslot n h]

theorem State.acknowledge_keepsTraffic (s : State) : keepsTraffic s s.acknowledge := by
  unfold State.acknowledge
  split
  case h_1 =>
    split
    · exact s.failAccess_keepsTraffic
    · exact keepsTraffic_of_frame rfl rfl rfl
  all_goals exact keepsTraffic_refl s

theorem State.hearAcknowledgement_keepsTraffic (s : State) (n : SlotId) : keepsTraffic s (s.hearAcknowledgement n) := by
  unfold State.hearAcknowledgement
  dsimp only
  split
  · exact keepsTraffic_refl s
  split
  · exact (s.line_keepsTraffic n true).trans (State.acknowledge_keepsTraffic _)
  · exact s.line_keepsTraffic n true

theorem State.takeExpiry_keepsTraffic (s : State) : keepsTraffic s s.takeExpiry := by
  unfold State.takeExpiry
  split
  case h_1 | h_2 => exact s.failAccess_keepsTraffic
  case h_3 | h_4 => exact keepsTraffic_of_frame rfl rfl rfl
  all_goals exact keepsTraffic_refl s

theorem State.expireAccess_keepsTraffic (s : State) : keepsTraffic s s.expireAccess := by
  unfold State.expireAccess
  split
  case h_1 | h_2 | h_3 | h_4 =>
    split
    · exact keepsTraffic_refl s
    · exact (s.reach_keepsTraffic _).trans (State.takeExpiry_keepsTraffic _)
  all_goals exact keepsTraffic_refl s

theorem State.endAccess_keepsTraffic (s : State) (data : Half) (high : Bool) : keepsTraffic s (s.endAccess data high) := by
  unfold State.endAccess
  split
  case h_1 j _ _ | h_2 j _ _ =>
    refine keepsTraffic.trans ((s.line_keepsTraffic j.slot (!high)).trans (State.reach_keepsTraffic _ s.sb.stopEnds)) ?_
    split
    · exact State.endFailed_keepsTraffic _
    · exact State.succeedAccess_keepsTraffic _ _
  all_goals exact keepsTraffic_refl s

/-! ## The slot lines (R9, R10, R18, R19, R23) -/

theorem State.presence_keepsTraffic (s : State) (n : SlotId) (up : Bool) :
    keepsTraffic s (s.modSlot n fun sl => { sl with present := up }) :=
  keepsTraffic_modSlot_of_rest (by simp [Slot.sameCore]) rfl rfl rfl

/-- `attached` says that the part is attached. -/
theorem State.attached_iff (s : State) : s.attached = false ↔ s.ring.state ≠ .attached := by
  simp [State.attached]

theorem State.presenceRise_keepsTraffic (s : State) (n : SlotId) : keepsTraffic s (s.presenceRise n) := by
  have hup := s.presence_keepsTraffic n true
  unfold State.presenceRise
  dsimp only
  split
  · exact hup
  rename_i hatt
  rw [State.attached_iff, not_not] at hatt
  split
  case h_1 => rename_i hst; exact hup.trans (State.seat_keepsTraffic (by simpa using hatt) (by simpa using hst))
  case h_2 => exact hup.trans (keepsTraffic_modSlot_of_rest (by simp [Slot.sameCore]) rfl rfl rfl)
  all_goals exact hup

/-- A change of a slot without credit. -/
theorem keepsTraffic_modSlot_of_noCredit {s : State} {n : SlotId} {f : Slot → Slot} (hst : (s.slot n).state.noCredit = true)
    (hne : (s.slot n).state ≠ .empty) (hok : (s.slot n).ok = true → (f (s.slot n)).ok = true) :
    keepsTraffic s (s.modSlot n f) :=
  keepsTraffic_of_turns_of_entries (slotTurns_modSlot n s f) hok (.inr (.inl hne)) (fun _ => rfl) fun hc hs =>
    .inl fun k => (State.countsFor_of_noCredit hst hc hs k :)

theorem State.unseat_keepsTraffic {s : State} {n : SlotId} (hst : (s.slot n).state = .seating) :
    keepsTraffic s (s.modSlot n fun sl => (sl.toEmpty).count Counters.addBounce) := by
  refine keepsTraffic_modSlot_of_noCredit (by simp [hst, SlotState.noCredit]) (by simp [hst]) fun hok => ?_
  rw [Slot.ok_iff, hst] at hok
  simp [Slot.ok_iff, Slot.count, Slot.toEmpty] at hok ⊢
  tauto

theorem State.presenceDrop_keepsTraffic (s : State) (n : SlotId) : keepsTraffic s (s.presenceDrop n) := by
  have hdown := s.presence_keepsTraffic n false
  unfold State.presenceDrop
  dsimp only
  split
  · exact hdown
  split
  case h_1 | h_2 => exact hdown
  case h_3 => rename_i hst; exact hdown.trans (State.unseat_keepsTraffic (by simpa using hst))
  case h_4 | h_5 | h_6 | h_7 | h_8 | h_9 =>
    rename_i hst
    exact hdown.trans (State.pullOut_keepsTraffic (by simp [hst, SlotState.beforeTraffic]))
  all_goals
    rename_i hst
    exact hdown.trans (State.vacate_keepsTraffic (by simp [hst, SlotState.traffic]))

theorem State.ejectorEdge_keepsTraffic (s : State) (n : SlotId) (opened : Bool) :
    keepsTraffic s (s.ejectorEdge n opened) := by
  have hlevel : keepsTraffic s (s.modSlot n fun sl => { sl with eject := opened, ejectorOpen := opened }) :=
    keepsTraffic_modSlot_of_rest (by simp [Slot.sameCore]) rfl rfl rfl
  unfold State.ejectorEdge
  dsimp only
  split
  · exact hlevel.trans (State.postEvent_keepsTraffic _ _)
  · exact hlevel

theorem State.ejectorOpened_keepsTraffic (s : State) (n : SlotId) : keepsTraffic s (s.ejectorOpened n) := by
  unfold State.ejectorOpened
  dsimp only
  split
  · exact (s.ejectorEdge_keepsTraffic n true).trans (State.retireSlot_keepsTraffic _ n)
  · exact s.ejectorEdge_keepsTraffic n true

theorem State.pwrGood_keepsTraffic (s : State) (n : SlotId) (up : Bool) :
    keepsTraffic s (s.modSlot n fun sl => { sl with pwrGood := up }) :=
  keepsTraffic_modSlot_of_rest (by simp [Slot.sameCore]) rfl rfl rfl

theorem State.pwrGoodRise_keepsTraffic (s : State) (n : SlotId) : keepsTraffic s (s.pwrGoodRise n) := by
  unfold State.pwrGoodRise
  dsimp only
  split
  · rename_i h
    exact (s.pwrGood_keepsTraffic n true).trans (State.identify_keepsTraffic (by simpa using h.2))
  · exact s.pwrGood_keepsTraffic n true

theorem State.pwrGoodDrop_keepsTraffic (s : State) (n : SlotId) : keepsTraffic s (s.pwrGoodDrop n) := by
  have hdown := s.pwrGood_keepsTraffic n false
  unfold State.pwrGoodDrop
  dsimp only
  split
  · exact hdown
  split
  case h_1 | h_2 | h_3 =>
    rename_i hst
    exact hdown.trans (State.faultSlot_keepsTraffic _ (by simp [hst, SlotState.beforeTraffic]))
  case h_4 | h_5 | h_6 | h_7 | h_8 =>
    rename_i hst
    exact hdown.trans (State.losePower_keepsTraffic (by simp [hst, SlotState.traffic]))
  case h_9 =>
    rename_i hst
    split
    · exact hdown.trans (State.losePowerRetiring_keepsTraffic (by simp [hst]))
    · exact hdown
  all_goals exact hdown

/-! ## Expiries and drain ends (R3, R133) -/

/-- An expiry in any state but IDENTIFYING, which no timer runs in. -/
theorem State.expiry_keepsTraffic {s : State} {n : SlotId} {st : SlotState} {f : State → State} (hst : st ≠ .identifying)
    (hf : ∀ u : State, (u.slot n).state = st → keepsTraffic u (f u)) : keepsTraffic s (s.expiry n st f) := by
  unfold State.expiry
  split
  · rename_i h
    exact (s.reach_keepsTraffic _).trans (hf _ ((State.reach_slot_state _ (h ▸ hst)).trans h))
  · exact keepsTraffic_refl s

theorem State.whenDrained_keepsTraffic {s : State} {n : SlotId} {st : SlotState} {f : State → State}
    (hf : (s.slot n).state = st → s.drained n = true → keepsTraffic s (f s)) : keepsTraffic s (s.whenDrained n st f) := by
  unfold State.whenDrained
  split
  · rename_i h
    exact hf h.1 h.2
  · exact keepsTraffic_refl s

theorem State.endDrain_keepsTraffic {s : State} {n : SlotId} (hst : (s.slot n).state = .retiring)
    (hd : s.drained n = true) : keepsTraffic s (s.endDrain n) := by
  obtain ⟨hin, hnone⟩ := State.of_drained hd
  exact State.endDrain_keepsTraffic_of ⟨rfl, fun _ _ => rfl, rfl⟩ (by simp [hst]) (fun hok => Slot.draining_of_ok hok hst)
    hin (fun _ => Entry.eases_refl _) fun _ _ => hnone

theorem State.graceExpiry_keepsTraffic {s : State} {n : SlotId} (hst : (s.slot n).state = .grace) :
    keepsTraffic s ((s.toRetiring n (some .link)).linkDownDrain n) :=
  State.toRetiring_linkDownDrain_keepsTraffic _ ⟨rfl, fun _ _ => rfl, rfl⟩ (.inr hst) (fun _ => rfl)
    ⟨rfl, rfl, rfl, rfl, rfl⟩

/-! ## Probe outcomes (R13) -/

theorem State.keyAccepted_keepsTraffic (s : State) (n : SlotId) : keepsTraffic s (s.keyAccepted n) := by
  unfold State.keyAccepted
  split
  · rename_i h
    exact State.settle_keepsTraffic h.1
  · exact keepsTraffic_refl s

theorem State.probeFault_keepsTraffic (s : State) (n : SlotId) : keepsTraffic s (s.probeFault n) := by
  unfold State.probeFault
  split
  · rename_i c h
    have hst : (s.slot n).state = .probing := by
      by_contra hne
      simp [Slot.probeFault, hne] at h
    exact State.faultSlot_keepsTraffic c (by simp [hst, SlotState.beforeTraffic])
  · exact keepsTraffic_refl s

/-! ## Requests (chapter 10) -/

theorem State.finish_keepsTraffic (s : State) (a : Response) : keepsTraffic s (s.finish a) :=
  keepsTraffic_of_frame rfl rfl rfl

theorem State.request_keepsTraffic {s : State} {kind : Nat} {f : Request → State} (hf : ∀ r, keepsTraffic s (f r)) :
    keepsTraffic s (s.request kind f) := by
  unfold State.request
  split
  · split
    · exact hf _
    · exact keepsTraffic_refl s
  · exact keepsTraffic_refl s

theorem State.slotRequest_keepsTraffic {s : State} {kind : Nat} {f : Request → SlotId → State}
    (hf : ∀ r n, keepsTraffic s (f r n)) : keepsTraffic s (s.slotRequest kind f) := by
  refine State.request_keepsTraffic fun r => ?_
  split
  · exact hf r _
  · exact s.finish_keepsTraffic _

theorem State.admitSlot_keepsTraffic (s : State) (r : Request) (n : SlotId) : keepsTraffic s (s.admitSlot r n) := by
  unfold State.admitSlot
  split
  · exact s.finish_keepsTraffic _
  rename_i hst
  rw [not_not] at hst
  split
  · exact s.finish_keepsTraffic _
  · refine (keepsTraffic_modSlot_of_noCredit (by simp [hst, SlotState.noCredit]) (by simp [hst]) fun hok => ?_).trans
      (State.finish_keepsTraffic _ _)
    rw [Slot.ok_iff, hst] at hok
    simp [Slot.ok_iff, Slot.admitted, Slot.fits, Slot.partlyPlaces] at hok ⊢
    tauto

theorem State.stageSlot_keepsTraffic (s : State) (r : Request) (n : SlotId) : keepsTraffic s (s.stageSlot r n) := by
  unfold State.stageSlot
  split
  · exact s.finish_keepsTraffic _
  split
  · exact s.finish_keepsTraffic _
  · exact (keepsTraffic_modSlot_of_rest (by simp [Slot.sameCore, Slot.staged]) rfl rfl rfl).trans
      (State.finish_keepsTraffic _ _)

theorem State.setExtent_keepsTraffic (s : State) (x : Nat) (e : Extent) : keepsTraffic s (s.setExtent x e) :=
  keepsTraffic_of_frame (by simp) (by simp) (by rw [State.setExtent_ring])

theorem State.makeDirty_keepsTraffic (s : State) (x : Nat) : keepsTraffic s (s.makeDirty x) :=
  keepsTraffic_of_frame (by simp) (by simp) (by rw [State.makeDirty_ring])

theorem State.claimExtent_keepsTraffic (s : State) (n : SlotId) (old : List MapEntry) (x : Nat) :
    keepsTraffic s (s.claimExtent n old x) := by
  unfold State.claimExtent
  split
  · exact s.setExtent_keepsTraffic x _
  · split
    · exact keepsTraffic_refl s
    · exact s.setExtent_keepsTraffic x _
  all_goals exact keepsTraffic_refl s

theorem State.releaseExtents_keepsTraffic (s : State) (n : SlotId) (xs : List Nat) :
    keepsTraffic s (s.releaseExtents n xs) :=
  keepsTraffic_of_frame (by simp) (by simp) (by rw [State.releaseExtents_ring])

theorem State.install_keepsTraffic (s : State) (r : Request) (n : SlotId) : keepsTraffic s (s.install r n) := by
  refine keepsTraffic.trans ?_ (State.finish_keepsTraffic _ _)
  refine keepsTraffic.trans ?_ (keepsTraffic_modSlot_of_rest (by simp [Slot.sameCore]) rfl rfl rfl)
  refine keepsTraffic.trans ?_ (State.releaseExtents_keepsTraffic _ n _)
  exact keepsTraffic_foldl _ (fun t x => t.claimExtent_keepsTraffic n _ x) _ s

theorem State.commitSlot_keepsTraffic (s : State) (r : Request) (n : SlotId) : keepsTraffic s (s.commitSlot r n) := by
  unfold State.commitSlot
  split
  · exact s.finish_keepsTraffic _
  split
  · exact s.finish_keepsTraffic _
  · exact s.install_keepsTraffic r n

/-- A LIVE slot closes its intake (R135). -/
theorem Slot.held_ok {sl : Slot} (now limit : Nat) (hok : sl.ok = true) (hst : sl.state = .live) :
    ({ sl with state := .holding, intake := .closed, timer := .running now (limit * 1000) } : Slot).ok = true := by
  rw [Slot.ok_iff, hst] at hok
  simp [Slot.ok_iff, Slot.fits, Slot.partlyPlaces] at hok ⊢
  tauto

theorem State.holdSlot_keepsTraffic (s : State) (r : Request) (n : SlotId) : keepsTraffic s (s.holdSlot r n) := by
  unfold State.holdSlot
  split
  · exact s.finish_keepsTraffic _
  rename_i hst
  rw [not_not] at hst
  refine ((s.finish_keepsTraffic _).trans (keepsTraffic_modSlot (fun hok => ?_) (.inr (.inl ?_)) rfl rfl ?_)).trans
    (State.settleHolding_keepsTraffic (by simp))
  · exact Slot.held_ok _ _ hok (by simpa using hst)
  · simp [hst]
  · simp

theorem State.resumeSlot_keepsTraffic (s : State) (r : Request) (n : SlotId) : keepsTraffic s (s.resumeSlot r n) := by
  unfold State.resumeSlot
  split
  · exact s.finish_keepsTraffic _
  rename_i hst
  rw [not_not] at hst
  have hreopen := State.reopen_keepsTraffic_of .translated
    (slotTurns_modSlot n s fun sl => { sl with state := .live }) (by simp [hst])
    (fun hok => Slot.reopened_ok (sl := s.slot n) (timer := (s.slot n).timer) hok (.inr hst) id
      fun h => by simp [hst] at h) (fun _ => rfl) rfl rfl (by simp)
  exact hreopen.trans (State.finish_keepsTraffic _ _)

theorem State.retireRequest_keepsTraffic (s : State) (r : Request) (n : SlotId) : keepsTraffic s (s.retireRequest r n) := by
  unfold State.retireRequest
  split
  · exact s.finish_keepsTraffic _
  · exact (s.finish_keepsTraffic _).trans (State.retireSlot_keepsTraffic _ n)

theorem State.restartSlot_keepsTraffic (s : State) (r : Request) (n : SlotId) : keepsTraffic s (s.restartSlot r n) := by
  unfold State.restartSlot
  split
  · exact s.finish_keepsTraffic _
  rename_i hst
  have hst' : (s.slot n).state = .retired ∨ (s.slot n).state = .faulted := by tauto
  refine (s.finish_keepsTraffic _).trans (State.powerUp_keepsTraffic_of (slotTurns_modSlot n (s.accept r n) _)
    (fun _ => rfl) ?_ (fun hok => ?_) rfl rfl)
  · rcases hst' with h | h <;> simp [h]
  · have hok' : (s.slot n).ok = true := hok
    rw [Slot.ok_iff] at hok'
    rcases hst' with h | h <;> simp [State.accept, h] at hok' ⊢ <;> tauto

theorem State.publishExtent_keepsTraffic (s : State) (r : Request) : keepsTraffic s (s.publishExtent r) := by
  unfold State.publishExtent
  dsimp only
  split
  · exact s.finish_keepsTraffic _
  split
  · exact (s.setExtent_keepsTraffic _ _).trans (State.finish_keepsTraffic _ _)
  · exact s.finish_keepsTraffic _

theorem State.withdrawExtent_keepsTraffic (s : State) (r : Request) : keepsTraffic s (s.withdrawExtent r) := by
  unfold State.withdrawExtent
  dsimp only
  split
  · exact s.finish_keepsTraffic _
  split
  · split
    · exact (s.makeDirty_keepsTraffic _).trans (State.finish_keepsTraffic _ _)
    · exact (s.setExtent_keepsTraffic _ _).trans (State.finish_keepsTraffic _ _)
  · exact s.finish_keepsTraffic _

theorem State.sidebandSlot_keepsTraffic (s : State) (r : Request) (n : SlotId) : keepsTraffic s (s.sidebandSlot r n) := by
  unfold State.sidebandSlot
  split
  · exact s.finish_keepsTraffic _
  split
  · exact s.finish_keepsTraffic _
  split
  · exact s.finish_keepsTraffic _
  · exact keepsTraffic_of_frame (by simp) (by simp) (by simp)

theorem State.querySlot_keepsTraffic (s : State) (r : Request) (n : SlotId) : keepsTraffic s (s.querySlot r n) := by
  unfold State.querySlot
  dsimp only
  refine keepsTraffic.trans ?_ (State.finish_keepsTraffic _ _)
  split
  · exact keepsTraffic_modSlot_of_rest (by simp [Slot.sameCore]) rfl rfl rfl
  · exact keepsTraffic_refl s

end Sys2Proof.Machine
end

section
/-! The memory port, the attach, DETACH, RESET and the Ring Interface's steps keep the invariants of the slots and of the
credits, and with them every step of the block does. -/

namespace Sys2Proof.Machine

/-! ## The ring state -/

@[simp] theorem Ring.enqueue_state (r : Ring) (op : RingOp) : (r.enqueue op).state = r.state := by
  unfold Ring.enqueue; split <;> rfl

@[simp] theorem Ring.setMirror_state (r : Ring) (i : Nat) (m : Mirror) : (r.setMirror i m).state = r.state := by
  rw [Ring.setMirror_eq]

@[simp] theorem Ring.handBack_state (r : Ring) (w : ControlReq) : (r.handBack w).state = r.state := by
  by_cases h : r.state = .detached
  · rw [Ring.handBack, if_pos h]
  · rw [Ring.handBack_eq r w h, foldl_handBackOne_eq]

@[simp] theorem Ring.fetched_state (r : Ring) (idx : Nat) (data : List Beat) : (r.fetched idx data).state = r.state := by
  unfold Ring.fetched; split <;> rfl

/-- Only a draining part is detached by the end of a response write (R191). -/
theorem Ring.responseDone_attached (r : Ring) (i : Nat) (last : Bool) (h : r.state = .attached) :
    (r.responseDone i last).state = .attached := by
  unfold Ring.responseDone
  dsimp only
  have hr : (if r.mirrorAt i = .writing then r.setMirror i .full else r).state = .attached := by split <;> simp [h]
  rw [if_neg (by simp [hr])]
  exact hr

theorem Ring.ended_attached (r : Ring) (ref : RingRef) (h : r.state = .attached) : (r.ended ref).state = .attached := by
  cases ref with
  | response i last => exact r.responseDone_attached i last h
  | fetch _ => exact h
  | taken => exact h
  | status _ => exact h
  | attachResult => exact h

/-- A step of the Ring Interface alone. -/
theorem keepsTraffic_ring {s : State} {r : Ring} (h : s.ring.state = .attached → r.state = .attached) :
    keepsTraffic s { s with ring := r } :=
  keepsTraffic_of_slots (fun _ => rfl) h fun _ => Entry.eases_refl _

theorem State.responseWrite_keepsTraffic (s : State) : keepsTraffic s { s with ring := s.ring.responseWrite } := by
  refine keepsTraffic_ring fun h => ?_
  unfold Ring.responseWrite
  split
  · exact h
  · split
    · simpa [Ring.writeResponse] using h
    · exact h

theorem State.statusWrite_keepsTraffic (s : State) : keepsTraffic s { s with ring := s.ring.statusWrite } := by
  refine keepsTraffic_ring fun h => ?_
  unfold Ring.statusWrite
  split
  · exact h
  · split
    · simpa using h
    · exact h

theorem State.judge_keepsTraffic (s : State) (q : Request) : keepsTraffic s (s.judge q) := by
  unfold State.judge
  split
  · exact s.finish_keepsTraffic _
  split
  · exact s.finish_keepsTraffic _
  · exact keepsTraffic_refl s

theorem State.takeHeld_keepsTraffic (s : State) : keepsTraffic s s.takeHeld := by
  unfold State.takeHeld
  split
  · exact keepsTraffic_refl s
  · split
    · exact (keepsTraffic_ring fun h => by simpa [Ring.take] using h).trans (State.judge_keepsTraffic _ _)
    · exact keepsTraffic_refl s

/-! ## The Scrub Engine -/

theorem State.scrubTake_keepsTraffic (s : State) : keepsTraffic s s.scrubTake := by
  unfold State.scrubTake
  split
  · exact keepsTraffic_refl s
  split
  · exact keepsTraffic_refl s
  split
  · exact keepsTraffic_of_frame rfl rfl rfl
  · exact keepsTraffic_of_frame (by simp) (by simp)
      ((Ring.markStale_state _ _).trans (by rw [State.setExtent_ring]))

theorem ite_keepsTraffic {s t u : State} (p : Prop) [Decidable p] (h : keepsTraffic s t) (k : keepsTraffic s u) :
    keepsTraffic s (if p then t else u) := by
  split
  · exact h
  · exact k

theorem State.endPass_keepsTraffic (s : State) (x : Nat) : keepsTraffic s (s.endPass x) := by
  unfold State.endPass
  dsimp only
  have hset := s.setExtent_keepsTraffic x ⟨if s.scrub.errors = 0 then .free else .bad, none, 0, false⟩
  have hidle (b : State) : keepsTraffic b { b with scrub := ⟨none, 0, 0, 0, 0, b.scrub.deferral⟩ } :=
    keepsTraffic_of_frame rfl rfl rfl
  have hend := (ite_keepsTraffic (s.scrub.errors = 0) hset
    (hset.trans (State.postEvent_keepsTraffic _ (.extentBad x s.scrub.errors s.scrub.timeouts)))).trans (hidle _)
  exact ite_keepsTraffic _ (hend.trans (State.postEvent_keepsTraffic _ _)) (hend.trans (State.scrubTake_keepsTraffic _))

theorem State.passEnd_keepsTraffic (s : State) : keepsTraffic s s.passEnd := by
  unfold State.passEnd
  split
  · exact keepsTraffic_refl s
  · split
    · exact s.endPass_keepsTraffic _
    · exact keepsTraffic_refl s

/-! ## The attach (R8, R182) -/

/-- An EMPTY slot at an attach keeps its invariants. -/
theorem Slot.atAttach_ok {sl : Slot} (now debounce : Nat) (hok : sl.ok = true) (hst : sl.state = .empty) :
    (sl.atAttach now debounce).ok = true := by
  rw [Slot.ok_iff, hst] at hok
  unfold Slot.atAttach
  split <;> simp [Slot.ok_iff, Slot.toSeating, hst] at hok ⊢ <;> tauto

/-- An attach changes no credit and no incarnation. -/
theorem Slot.atAttach_credit (sl : Slot) (now debounce : Nat) :
    (sl.atAttach now debounce).effCredit = sl.effCredit ∧ (sl.atAttach now debounce).incarnation = sl.incarnation := by
  unfold Slot.atAttach
  split <;> exact ⟨rfl, rfl⟩

theorem Slot.atAttach_not_vacating {sl : Slot} (now debounce : Nat) (hst : sl.state = .empty) :
    (sl.atAttach now debounce).state ≠ .vacating := by
  unfold Slot.atAttach
  split <;> simp [Slot.toSeating, hst]

theorem Ring.attach_state (r : Ring) (a : AttachRecord) : (r.attach a).state = .attached := by
  simp [Ring.attach]

theorem State.attach_keepsTraffic {s : State} (a : AttachRecord) (hdet : s.ring.state = .detached) :
    keepsTraffic s (s.attach a) := by
  refine keepsTraffic.trans ?_ (State.scrubTake_keepsTraffic _)
  intro hs
  have hempty : ∀ n, (s.slot n).state = .empty := fun n => (hs n).2 (by simp [hdet])
  refine ⟨fun n => ?_, fun hc => creditsOk_of_stands hc (fun k => Entry.eases_refl _) fun n => .inr ?_⟩
  · simp only [State.slot, Vector.get_ofFn, Ring.attach_state]
    exact ⟨Slot.atAttach_ok _ _ (hs n).1 (hempty n), fun h => absurd rfl h⟩
  · simp only [State.slot, Vector.get_ofFn]
    obtain ⟨hcr, hinc⟩ := (s.slot n).atAttach_credit s.now a.debounce
    exact ⟨hcr.ge, hinc, fun hv => absurd hv (Slot.atAttach_not_vacating _ _ (hempty n))⟩

theorem State.fetched_keepsTraffic (s : State) (f : FetchTarget) (data : List Beat) : keepsTraffic s (s.fetched f data) := by
  cases f with
  | ringEntry idx => exact keepsTraffic_ring fun h => by simpa using h
  | attachRecord =>
    unfold State.fetched State.attachFetched
    dsimp only
    split
    · exact keepsTraffic_refl s
    rename_i hdet
    simp only [not_or, not_not] at hdet
    split
    · exact keepsTraffic_ring fun h => by simpa using h
    split
    · exact keepsTraffic_ring fun h => by simpa using h
    · exact State.attach_keepsTraffic _ hdet.1

/-! ## Completions (R116 to R126) -/

/-- A read in flight that goes on to another state in flight, with whatever answer. -/
theorem Entry.eases_read {e : Entry} {st : EntryState} {held : HeldAnswer} (hkind : e.kind = .read)
    (hst : e.state.inFlight = true) : e.eases { e with state := st, held := held } :=
  ⟨fun _ => by simp [Entry.keepsOk, hkind], fun n hc => by
    simp only [Entry.countsFor, Bool.and_eq_true] at hc ⊢
    exact ⟨⟨hst, hc.2⟩, trivial, trivial⟩⟩

/-- An entry in flight whose deadline passes. -/
theorem Entry.eases_late {e : Entry} (hst : e.state.inFlight = true) : e.eases { e with state := .late } :=
  ⟨fun hk => by simp [Entry.keepsOk] at hk ⊢; tauto, fun n hc => by
    simp only [Entry.countsFor, Bool.and_eq_true] at hc ⊢
    exact ⟨⟨hst, hc.2⟩, trivial, trivial⟩⟩

/-- A LATE read with a kept TIMEOUT waits for the link (R124). -/
theorem Entry.eases_waiting {e : Entry} (hst : e.state.inFlight = true) (hheld : e.held = .timeout) :
    e.eases { e with state := .waiting } :=
  ⟨fun hk => by simpa [Entry.keepsOk, hheld] using hk, fun n hc => by
    simp only [Entry.countsFor, Bool.and_eq_true] at hc ⊢
    exact ⟨⟨hst, hc.2⟩, trivial, trivial⟩⟩

theorem State.count_keepsTraffic (s : State) (n : SlotId) (f : Counters → Counters) :
    keepsTraffic s (s.modSlot n fun sl => sl.count f) :=
  keepsTraffic_modSlot_of_rest (by simp [Slot.sameCore, Slot.count]) rfl rfl rfl

theorem State.slotWriteError_keepsTraffic (s : State) (n : SlotId) (e : Entry) (st : EntryState) :
    keepsTraffic s (s.slotWriteError n e st) :=
  (s.count_keepsTraffic n _).trans (State.postEvent_keepsTraffic _ _)

/-- An entry that joins the hold list. -/
theorem State.holds_keepsTraffic (s : State) (n : SlotId) (k : MemTag) :
    keepsTraffic s (s.modSlot n fun sl => { sl with holdList := sl.holdList ++ [k] }) :=
  keepsTraffic_modSlot_of_rest (by simp [Slot.sameCore]) rfl rfl rfl

theorem State.completeRead_keepsTraffic {s : State} {k : MemTag} (n : SlotId) (tag : BladeTag) (ok : Bool)
    (data : List Beat) (hst : (s.entry k).state = .issued) (hkind : (s.entry k).kind = .read) :
    keepsTraffic s (s.completeRead k n (s.entry k) tag ok data) := by
  have hcount : keepsTraffic s (if ok = true then s else s.modSlot n fun sl => sl.count Counters.addMemerr) := by
    split
    · exact keepsTraffic_refl s
    · exact s.count_keepsTraffic n _
  have hentry : (if ok = true then s else s.modSlot n fun sl => sl.count Counters.addMemerr).entry k = s.entry k := by
    split <;> rfl
  unfold State.completeRead
  dsimp only
  split
  · exact (hcount.trans (State.freeEntry_keepsTraffic _ k)).trans (State.sendData_keepsTraffic _ n _)
  split
  · refine (hcount.trans (State.setEntry_keepsTraffic _ ?_)).trans (State.holds_keepsTraffic _ n k)
    rw [hentry]
    exact Entry.eases_read hkind (by simp [hst, EntryState.inFlight])
  · exact hcount.trans (State.freeEntry_keepsTraffic _ k)

theorem State.completeControl_keepsTraffic (s : State) (k : MemTag) (e : Entry) (ok : Bool) (data : List Beat) :
    keepsTraffic s (s.completeControl k e ok data) := by
  have hfree := s.freeEntry_keepsTraffic k
  unfold State.completeControl
  dsimp only
  split
  · exact hfree.trans (keepsTraffic_of_frame rfl rfl rfl)
  · split
    · exact hfree.trans (State.fetched_keepsTraffic _ _ _)
    · exact hfree
  all_goals exact hfree

theorem State.completeRing_keepsTraffic (s : State) (k : MemTag) (e : Entry) (ok : Bool) (data : List Beat) :
    keepsTraffic s (s.completeRing k e ok data) := by
  have hfail : keepsTraffic s (if ok = false ∧ e.kind = .write then (s.freeEntry k).ringWriteError e .issued
      else s.freeEntry k) := by
    split
    · exact (s.freeEntry_keepsTraffic k).trans (State.postEvent_keepsTraffic _ _)
    · exact s.freeEntry_keepsTraffic k
  unfold State.completeRing
  dsimp only
  split
  · split
    · exact hfail.trans (State.fetched_keepsTraffic _ _ _)
    · exact hfail
  · exact hfail.trans (keepsTraffic_ring fun h => Ring.ended_attached _ _ h)
  all_goals exact hfail

theorem State.completeIssued_keepsTraffic {s : State} {k : MemTag} (ok : Bool) (data : List Beat)
    (hst : (s.entry k).state = .issued) : keepsTraffic s (s.completeIssued k (s.entry k) ok data) := by
  unfold State.completeIssued
  split
  · split
    case h_1 => rename_i hkind _; exact State.completeRead_keepsTraffic _ _ ok data hst hkind
    case h_7 =>
      split
      · exact s.freeEntry_keepsTraffic k
      · exact (s.freeEntry_keepsTraffic k).trans (State.slotWriteError_keepsTraffic _ _ _ _)
    all_goals exact s.freeEntry_keepsTraffic k
  · exact s.completeControl_keepsTraffic k _ ok data
  · exact s.completeRing_keepsTraffic k _ ok data
  · exact (s.freeEntry_keepsTraffic k).trans (keepsTraffic_of_frame rfl rfl rfl)

theorem State.completeLate_keepsTraffic {s : State} {k : MemTag} (ok : Bool) (hst : (s.entry k).state = .late) :
    keepsTraffic s (s.completeLate k (s.entry k) ok) := by
  unfold State.completeLate
  dsimp only
  split
  · rename_i n _
    refine (s.count_keepsTraffic n Counters.addLate).trans ?_
    split
    · rename_i hheld
      exact State.setEntry_keepsTraffic _ (Entry.eases_waiting (by simp [hst, EntryState.inFlight]) hheld)
    split
    · exact (State.freeEntry_keepsTraffic _ k).trans (State.slotWriteError_keepsTraffic _ _ _ _)
    · exact State.freeEntry_keepsTraffic _ k
  · split
    · exact (s.freeEntry_keepsTraffic k).trans (State.postEvent_keepsTraffic _ _)
    · exact s.freeEntry_keepsTraffic k
  all_goals exact s.freeEntry_keepsTraffic k

theorem State.completeOrphan_keepsTraffic (s : State) (k : MemTag) (e : Entry) (ok : Bool) :
    keepsTraffic s (s.completeOrphan k e ok) := by
  unfold State.completeOrphan
  dsimp only
  refine (s.freeEntry_keepsTraffic k).trans ?_
  split
  · split
    · exact State.slotWriteError_keepsTraffic _ _ _ _
    · exact State.postEvent_keepsTraffic _ _
    all_goals exact keepsTraffic_refl _
  · exact keepsTraffic_refl _

theorem State.complete_keepsTraffic (s : State) (k : MemTag) (ok : Bool) (data : List Beat) :
    keepsTraffic s (s.complete k ok data) := by
  have hlink : keepsTraffic s { s with trk := { s.trk with link := eraseRequest k s.trk.link } } :=
    keepsTraffic_of_eq (fun _ => rfl) rfl fun _ => rfl
  unfold State.complete
  dsimp only
  refine hlink.trans ?_
  split
  · rename_i hst; exact State.completeIssued_keepsTraffic ok data hst
  · rename_i hst; exact State.completeLate_keepsTraffic ok hst
  · exact State.completeOrphan_keepsTraffic _ _ _ _
  all_goals exact keepsTraffic_refl _

/-! ## The completion timeout (R121) -/

theorem State.slotTimeout_keepsTraffic {s : State} {k : MemTag} (n : SlotId) (hst : (s.entry k).state = .issued) :
    keepsTraffic s (s.slotTimeout k n (s.entry k)) := by
  have hin : (s.entry k).state.inFlight = true := by simp [hst, EntryState.inFlight]
  have hlate : keepsTraffic s ((s.modSlot n fun sl => sl.count Counters.addTimeout).setEntry k
      { s.entry k with state := .late }) :=
    (s.count_keepsTraffic n _).trans (State.setEntry_keepsTraffic _ (Entry.eases_late hin))
  unfold State.slotTimeout
  dsimp only
  split
  case h_1 hkind _ =>
    split
    · exact hlate.trans (State.sendData_keepsTraffic _ n _)
    split
    · exact ((s.count_keepsTraffic n _).trans (State.setEntry_keepsTraffic _ (Entry.eases_read hkind hin))).trans
        (State.holds_keepsTraffic _ n k)
    · exact hlate
  all_goals exact hlate

theorem State.deadlinePassed_keepsTraffic {s : State} {k : MemTag} (hst : (s.entry k).state = .issued) :
    keepsTraffic s (s.deadlinePassed k (s.entry k)) := by
  have hlate : keepsTraffic s (s.setEntry k { s.entry k with state := .late }) :=
    State.setEntry_keepsTraffic _ (Entry.eases_late (by simp [hst, EntryState.inFlight]))
  unfold State.deadlinePassed
  dsimp only
  split
  · exact State.slotTimeout_keepsTraffic _ hst
  · split
    · exact hlate.trans (keepsTraffic_of_frame rfl rfl rfl)
    all_goals exact hlate
  · split
    · exact hlate.trans (keepsTraffic_ring fun h => Ring.ended_attached _ _ h)
    all_goals exact hlate
  · exact hlate.trans (keepsTraffic_of_frame rfl rfl rfl)

theorem State.completionTimeout_keepsTraffic (s : State) (k : MemTag) : keepsTraffic s (s.completionTimeout k) := by
  unfold State.completionTimeout
  split
  · rename_i hst
    have hentry : (s.reach (s.entry k).deadline).entry k = s.entry k :=
      State.entry_of_trk_eq _ _ (s.reach_passesTime _).1.1 k
    refine (s.reach_keepsTraffic (s.entry k).deadline).trans ?_
    have h := State.deadlinePassed_keepsTraffic (s := s.reach (s.entry k).deadline) (k := k) (by rw [hentry]; exact hst)
    rwa [hentry] at h
  · exact keepsTraffic_refl s

/-! ## Grants (R111, R114) -/

/-- The entry of a request that no slot sent. -/
theorem State.issue_keepsTraffic (s : State) (k : MemTag) {p : Participant} (hp : ∀ n, p ≠ .slot n) (inc kind tag addr beats data) :
    keepsTraffic s (s.issue k p inc kind tag addr beats data) := by
  refine keepsTraffic_of_slots (fun _ => rfl) id fun j => ?_
  by_cases hj : j = k
  · subst hj
    rw [State.issue_entry_self]
    refine ⟨fun _ => by simp [Entry.keepsOk], fun n hc => ?_⟩
    simp [Entry.countsFor, hp n] at hc
  · rw [State.issue_entry_of_ne _ _ _ _ _ _ _ _ _ _ hj]
    exact Entry.eases_refl _

theorem State.grantControl_keepsTraffic (s : State) (k : MemTag) : keepsTraffic s (s.grantControl k) := by
  unfold State.grantControl
  split
  · exact keepsTraffic_refl s
  · unfold State.grantTrailing
    dsimp only
    split
    all_goals
      refine keepsTraffic.trans ?_ (State.issue_keepsTraffic _ k (by simp) _ _ _ _ _ _)
      exact keepsTraffic_of_frame rfl rfl rfl
  · split
    · unfold State.answerFilled
      dsimp only
      split
      · exact keepsTraffic_of_eq (fun _ => rfl) (Ring.markStale_state _ _) fun _ => rfl
      · exact keepsTraffic_of_eq (fun _ => rfl) rfl fun _ => rfl
    · unfold State.grantRequest
      dsimp only
      refine keepsTraffic.trans ?_ (State.issue_keepsTraffic _ k (by simp) _ _ _ _ _ _)
      exact keepsTraffic_of_frame rfl rfl (Ring.handBack_state _ _)

theorem State.grantRing_keepsTraffic (s : State) (k : MemTag) : keepsTraffic s (s.grantRing k) := by
  unfold State.grantRing
  split
  · exact keepsTraffic_refl s
  · dsimp only
    refine keepsTraffic.trans ?_ (State.issue_keepsTraffic _ k (by simp) _ _ _ _ _ _)
    exact keepsTraffic_of_frame rfl rfl rfl

theorem State.grantScrub_keepsTraffic (s : State) (k : MemTag) : keepsTraffic s (s.grantScrub k) := by
  unfold State.grantScrub
  split
  · exact keepsTraffic_refl s
  · dsimp only
    refine keepsTraffic.trans (t := s.issue k .scrub 0 .write (.scrub s.scrub.granted) _ 32
        (List.replicate 32 ⟨0xFF, s.ext.fillBeat⟩))
      (State.issue_keepsTraffic s k (by simp) _ _ _ _ _ _) (keepsTraffic_of_eq (fun _ => rfl) rfl fun _ => rfl)

/-- The head of the queue leaves it. -/
theorem Slot.dequeued_ok {sl : Slot} {q : IngressEntry} {rest : List IngressEntry} (hok : sl.ok = true)
    (hin : sl.ingress = q :: rest) : ({ sl with ingress := rest } : Slot).ok = true := by
  have hwrites : queuedWritesOf (q :: rest) = q :: rest → queuedWritesOf rest = rest := fun h =>
    List.filter_eq_self.2 fun a ha => List.filter_eq_self.1 h a (List.mem_cons_of_mem q ha)
  rw [Slot.ok_iff] at hok ⊢
  cases hst : sl.state <;>
    simp [hst, Slot.fits, Slot.partlyPlaces, hin] at hok ⊢ <;> grind

/-- One more entry in flight at most. -/
theorem State.inFlight_le_succ {s t : State} {n : SlotId} {k : MemTag}
    (h : ∀ j, (t.entry j).countsFor n = true → (s.entry j).countsFor n = true ∨ j = k) :
    t.inFlight (.slot n) ≤ s.inFlight (.slot n) + 1 := by
  have hle := State.inFlight_le (s := s.setEntry k { (s.entry k) with state := .issued, who := .slot n }) (t := t) (n := n)
    fun j hj => by
      rw [State.setEntry_entry]
      split
      · simp [Entry.countsFor, EntryState.inFlight]
      · rename_i hne
        exact (h j hj).resolve_right hne
  refine hle.trans ?_
  simp only [State.inFlight, State.setEntry, Vector.toList_set]
  rw [List.countP_set (by simp)]
  split <;> split <;> omega

/-- The record of a slot whose head is granted (R74). -/
def Slot.dequeued (sl : Slot) (rest : List IngressEntry) : Slot := Slot.regrant { sl with ingress := rest }

/-- The grant of a slot's head: its place is granted again, and its request takes the entry (R74, R114). -/
theorem State.issueSlot_keepsTraffic {s : State} {n : SlotId} {k : MemTag} {q : IngressEntry} {rest : List IngressEntry}
    {kind : AccessKind} {tag : RequesterTag} {addr : Addr} {beats : Nat} {data : List MaskedBeat}
    (hin : (s.slot n).ingress = q :: rest) (hroom : s.inFlight (.slot n) < (s.slot n).effCredit)
    (hkind : (s.slot n).state = .vacating → queuedWritesOf (s.slot n).ingress = (s.slot n).ingress → kind = .write) :
    keepsTraffic s ((s.modSlot n fun sl => sl.dequeued rest).issue k (.slot n) (s.slot n).incarnation kind tag addr beats
      data) := by
  intro hs
  have hok := (hs n).1
  obtain ⟨⟨hst', -, -, -, hcr', hinc', -⟩, -⟩ := Slot.regrant_core { s.slot n with ingress := rest }
  have hself : ∀ j, j ≠ k → (((s.modSlot n fun sl => sl.dequeued rest).issue k (.slot n) (s.slot n).incarnation kind tag
      addr beats data).entry j) = s.entry j := fun j hj => State.issue_entry_of_ne _ _ _ _ _ _ _ _ _ _ hj
  refine ⟨slotsOk_of_turns hs (slotTurns_modSlot n s fun sl => sl.dequeued rest)
    (Slot.regrant_ok (Slot.dequeued_ok hok hin)) (.inr hst'), fun hc => ⟨fun j => ?_, fun m => ⟨?_, fun j hj => ?_, fun hv j hj => ?_⟩⟩⟩
  · by_cases hj : j = k
    · rw [hj, State.issue_entry_self]
      simp [Entry.keepsOk]
    · rw [hself j hj]
      exact hc.1 j
  · rw [State.issue_slot]
    by_cases hm : m = n
    · subst hm
      rw [State.modSlot_slot_self, Slot.dequeued, hcr']
      refine (State.inFlight_le_succ (s := s) (k := k) fun j hj => ?_).trans hroom
      by_cases hjk : j = k
      · exact .inr hjk
      · rw [hself j hjk] at hj
        exact .inl hj
    · rw [State.modSlot_slot_of_ne _ _ _ _ hm]
      refine (State.inFlight_le fun j hj => ?_).trans (hc.2 m).1
      by_cases hjk : j = k
      · rw [hjk, State.issue_entry_self] at hj
        simp [Entry.countsFor, EntryState.inFlight, Ne.symm hm] at hj
      · rwa [hself j hjk] at hj
  · rw [State.issue_slot]
    by_cases hjk : j = k
    · rw [hjk, State.issue_entry_self] at hj ⊢
      obtain rfl : n = m := by simpa [Entry.countsFor, EntryState.inFlight] using hj
      rw [State.modSlot_slot_self]
      exact hinc'.symm
    · rw [hself j hjk] at hj ⊢
      rw [(hc.2 m).2.1 j hj, State.modSlot_slot]
      split
      · rename_i hm; rw [hm]; exact hinc'.symm
      · rfl
  · rw [State.issue_slot] at hv
    have hvs : (s.slot m).state = .vacating := by
      rw [State.modSlot_slot] at hv
      split at hv
      · rename_i hm; rw [hm]; exact hst'.symm.trans hv
      · exact hv
    by_cases hjk : j = k
    · rw [hjk, State.issue_entry_self] at hj ⊢
      obtain rfl : n = m := by simpa [Entry.countsFor, EntryState.inFlight] using hj
      refine hkind hvs ?_
      rw [Slot.ok_iff, hvs] at hok
      exact hok.2.2.2.1
    · rw [hself j hjk] at hj ⊢
      exact (hc.2 m).2.2 hvs j hj

theorem State.grantSlot_keepsTraffic {s : State} {n : SlotId} (k : MemTag) (h : s.eligible (.slot n) = true) :
    keepsTraffic s (s.grantSlot k n) := by
  have hroom : s.inFlight (.slot n) < (s.slot n).effCredit := by
    simp only [State.eligible, Bool.and_eq_true, decide_eq_true_eq] at h
    exact h.2
  unfold State.grantSlot
  dsimp only
  split
  · exact keepsTraffic_refl s
  · rename_i q rest hin
    split
    · rename_i tag hbody
      refine State.issueSlot_keepsTraffic hin hroom fun _ hq => ?_
      rw [hin] at hq
      have hmem := List.filter_eq_self.1 hq q List.mem_cons_self
      simp [hbody] at hmem
    · exact State.issueSlot_keepsTraffic hin hroom fun _ _ => rfl

theorem State.grant_keepsTraffic (s : State) (elapsed : Nat) : keepsTraffic s (s.grant elapsed) := by
  refine (s.elapse_keepsTraffic elapsed).trans ?_
  unfold State.grant State.decideGrant
  split
  · rename_i k p _ hfind
    cases p with
    | slot n => exact State.grantSlot_keepsTraffic k (List.find?_some hfind)
    | control => exact State.grantControl_keepsTraffic _ k
    | ring => exact State.grantRing_keepsTraffic _ k
    | scrub => exact State.grantScrub_keepsTraffic _ k
  all_goals exact keepsTraffic_refl _

/-! ## DETACH and RESET (R27, R109, R127, R191) -/

theorem Slot.reset_ok (present eject pwrGood : Bool) :
    ({ Slot.reset with present := present, eject := eject, pwrGood := pwrGood } : Slot).ok = true := by
  simp [Slot.ok_iff, Slot.reset]

theorem Entry.eases_atDetach (e : Entry) : e.eases e.atDetach := by
  unfold Entry.atDetach
  split
  · exact e.eases_orphan
  · exact e.eases_refl

/-- Every state in which a DETACH is accepted has no credit (R2, R191). -/
theorem SlotState.noCredit_of_detachable {st : SlotState} (h : st.detachable = true) : st.noCredit = true := by
  cases st <;> simp_all [SlotState.detachable, SlotState.noCredit]

theorem State.shutDownPart_keepsTraffic {s : State} (hdet : ∀ n, (s.slot n).state.detachable = true) :
    keepsTraffic s s.shutDownPart := by
  have hslot : ∀ n, s.shutDownPart.slot n = (s.slot n).atDetach := fun n => by
    simp [State.slot, State.shutDownPart]
  have hentry : ∀ k, s.shutDownPart.entry k = (s.entry k).atDetach := fun k => by
    simp [State.entry, State.shutDownPart]
  refine fun hs => ⟨fun n => ?_, fun hc => creditsOk_of_stands hc (fun k => ?_) fun n => .inl fun k => ?_⟩
  · rw [hslot n]
    exact ⟨Slot.reset_ok _ _ _, fun _ => rfl⟩
  · rw [hentry k]; exact Entry.eases_atDetach _
  · have hnone := State.countsFor_of_noCredit (SlotState.noCredit_of_detachable (hdet n)) hc hs k
    by_contra hcount
    rw [Bool.not_eq_false, hentry k] at hcount
    rw [((Entry.eases_atDetach (s.entry k)).2 n hcount).1] at hnone
    cases hnone

theorem State.detachPart_keepsTraffic (s : State) (r : Request) : keepsTraffic s (s.detachPart r) := by
  unfold State.detachPart
  split
  · rename_i hall
    refine (State.shutDownPart_keepsTraffic fun n => ?_).trans (State.finish_keepsTraffic _ _)
    rw [List.all_eq_true] at hall
    exact hall _ (by simp [State.slot, Vector.get_eq_getElem])
  · exact s.finish_keepsTraffic _

theorem State.resetPin_keepsTraffic (s : State) : keepsTraffic s s.resetPin := by
  have hslot : ∀ n, s.resetPin.slot n = Slot.reset := fun n => by
    simp [State.slot, State.resetPin, Vector.get_eq_getElem]
  have hentry : ∀ k, s.resetPin.entry k = Entry.free := fun k => by
    simp [State.entry, State.resetPin, Tracker.reset, Vector.get_eq_getElem]
  refine fun _ => ⟨fun n => ?_, fun hc => creditsOk_of_stands hc (fun k => ?_) fun n => .inl fun k => ?_⟩
  · rw [hslot n]
    exact ⟨Slot.reset_ok _ _ _, fun _ => rfl⟩
  · rw [hentry k]; exact Entry.eases_free _
  · rw [hentry k]; rfl

/-! ## Every command, and every step -/

/-- The commands of the lines, the timers, the drains and the slot links. -/
theorem exec_slotCommand_keepsTraffic {s t : State} (n : SlotId) (c : Instr) (h : exec c s = .next t)
    (hc : c ∈ [Instr.presenceRise n, .presenceDrop n, .ejectorOpened n, .ejectorClosed n, .pwrGoodRise n, .pwrGoodDrop n,
      .debounceExpiry n, .powerLimitExpiry n, .probeLimitExpiry n, .rampStepExpiry n, .holdLimitExpiry n, .graceExpiry n,
      .drainLimitExpiry n, .vacatingDrainLimitExpiry n, .linkUp n, .linkDown n, .keyAccepted n, .probeFault n, .drainEnd n,
      .holdDrainComplete n, .vacatingEnd n, .sidebandAcknowledgement n]) : keepsTraffic s t := by
  simp only [List.mem_cons, List.not_mem_nil, or_false] at hc
  rcases hc with rfl | rfl | rfl | rfl | rfl | rfl | rfl | rfl | rfl | rfl | rfl | rfl | rfl | rfl | rfl | rfl | rfl | rfl |
    rfl | rfl | rfl | rfl <;> obtain rfl := Host.Outcome.next.inj h
  · exact s.presenceRise_keepsTraffic n
  · exact s.presenceDrop_keepsTraffic n
  · exact s.ejectorOpened_keepsTraffic n
  · exact s.ejectorEdge_keepsTraffic n false
  · exact s.pwrGoodRise_keepsTraffic n
  · exact s.pwrGoodDrop_keepsTraffic n
  · exact State.expiry_keepsTraffic (by simp) fun u hu => State.powerUp_keepsTraffic hu
  · exact State.expiry_keepsTraffic (by simp) fun u hu => State.faultSlot_keepsTraffic _ (by simp [hu, SlotState.beforeTraffic])
  · exact State.expiry_keepsTraffic (by simp) fun u hu => State.faultSlot_keepsTraffic _ (by simp [hu, SlotState.beforeTraffic])
  · exact State.expiry_keepsTraffic (by simp) fun u hu => State.rampStep_keepsTraffic hu
  · exact State.expiry_keepsTraffic (by simp) fun u hu => State.failHold_keepsTraffic hu
  · exact State.expiry_keepsTraffic (by simp) fun u hu => State.graceExpiry_keepsTraffic hu
  · exact State.expiry_keepsTraffic (by simp) fun u hu => State.forceDrain_keepsTraffic hu
  · exact State.expiry_keepsTraffic (by simp) fun u hu => State.forceVacating_keepsTraffic hu
  · exact s.linkUp_keepsTraffic n
  · exact s.linkDown_keepsTraffic n
  · exact s.keyAccepted_keepsTraffic n
  · exact s.probeFault_keepsTraffic n
  · exact State.whenDrained_keepsTraffic State.endDrain_keepsTraffic
  · exact State.whenDrained_keepsTraffic fun hst _ => State.completeHold_keepsTraffic hst
  · exact State.whenDrained_keepsTraffic fun hst hd =>
      State.endVacating_keepsTraffic hst (State.of_drained hd).1 fun _ _ => (State.of_drained hd).2
  · exact s.hearAcknowledgement_keepsTraffic n

theorem State.fromLink_keepsTraffic (s : State) (n : SlotId) (i : LinkItem) : keepsTraffic s (s.fromLink n i) := by
  unfold State.fromLink
  split
  · exact s.takeItem_keepsTraffic n i
  · exact keepsTraffic_refl s

theorem exec_keepsTraffic {s t : State} (c : Instr) (h : exec c s = .next t) : keepsTraffic s t := by
  cases c with
  | reset => obtain rfl := Host.Outcome.next.inj h; exact s.resetPin_keepsTraffic
  | readFrame n f => obtain rfl := Host.Outcome.next.inj h; exact s.fromLink_keepsTraffic n _
  | writeFrame n f => obtain rfl := Host.Outcome.next.inj h; exact s.fromLink_keepsTraffic n _
  | frameStart n f => obtain rfl := Host.Outcome.next.inj h; exact s.fromLink_keepsTraffic n _
  | grant elapsed => obtain rfl := Host.Outcome.next.inj h; exact s.grant_keepsTraffic elapsed
  | memoryCompletion k ok data => obtain rfl := Host.Outcome.next.inj h; exact s.complete_keepsTraffic k ok data
  | completionTimeout k => obtain rfl := Host.Outcome.next.inj h; exact s.completionTimeout_keepsTraffic k
  | sidebandAccessEnd data high => obtain rfl := Host.Outcome.next.inj h; exact s.endAccess_keepsTraffic data high
  | sidebandTimeoutExpiry => obtain rfl := Host.Outcome.next.inj h; exact s.expireAccess_keepsTraffic
  | requestTake => obtain rfl := Host.Outcome.next.inj h; exact s.takeHeld_keepsTraffic
  | admission => obtain rfl := Host.Outcome.next.inj h; exact State.slotRequest_keepsTraffic s.admitSlot_keepsTraffic
  | stage => obtain rfl := Host.Outcome.next.inj h; exact State.slotRequest_keepsTraffic s.stageSlot_keepsTraffic
  | commit => obtain rfl := Host.Outcome.next.inj h; exact State.slotRequest_keepsTraffic s.commitSlot_keepsTraffic
  | hold => obtain rfl := Host.Outcome.next.inj h; exact State.slotRequest_keepsTraffic s.holdSlot_keepsTraffic
  | resume => obtain rfl := Host.Outcome.next.inj h; exact State.slotRequest_keepsTraffic s.resumeSlot_keepsTraffic
  | retire => obtain rfl := Host.Outcome.next.inj h; exact State.slotRequest_keepsTraffic s.retireRequest_keepsTraffic
  | restart => obtain rfl := Host.Outcome.next.inj h; exact State.slotRequest_keepsTraffic s.restartSlot_keepsTraffic
  | publish => obtain rfl := Host.Outcome.next.inj h; exact State.request_keepsTraffic s.publishExtent_keepsTraffic
  | withdraw => obtain rfl := Host.Outcome.next.inj h; exact State.request_keepsTraffic s.withdrawExtent_keepsTraffic
  | sideband => obtain rfl := Host.Outcome.next.inj h; exact State.slotRequest_keepsTraffic s.sidebandSlot_keepsTraffic
  | query => obtain rfl := Host.Outcome.next.inj h; exact State.slotRequest_keepsTraffic s.querySlot_keepsTraffic
  | detach => obtain rfl := Host.Outcome.next.inj h; exact State.request_keepsTraffic s.detachPart_keepsTraffic
  | responseWrite => obtain rfl := Host.Outcome.next.inj h; exact s.responseWrite_keepsTraffic
  | statusUnitWrite => obtain rfl := Host.Outcome.next.inj h; exact s.statusWrite_keepsTraffic
  | controlRequest r => obtain rfl := Host.Outcome.next.inj h; exact keepsTraffic_of_frame rfl rfl rfl
  | scrubTake => obtain rfl := Host.Outcome.next.inj h; exact s.scrubTake_keepsTraffic
  | scrubPassEnd => obtain rfl := Host.Outcome.next.inj h; exact s.passEnd_keepsTraffic
  | _ n => exact exec_slotCommand_keepsTraffic n _ h (by simp)

theorem step_keepsTraffic {s t : State} (h : step s = .next t) : keepsTraffic s t := by
  unfold step at h
  split at h
  · obtain rfl := Host.Outcome.next.inj h
    exact s.tick_keepsTraffic
  · rename_i c rest _
    exact (keepsTraffic_of_frame (t := { s with pending := rest }) rfl rfl rfl).trans (exec_keepsTraffic c h)

/-- Settles O56: each operation keeps the slots' own invariants, the commands are made of them, and a step is a command or
a microsecond. -/
theorem stepKeepsTheSlots : Obligations.StepKeepsTheSlots := by
  unfold Obligations.StepKeepsTheSlots
  exact fun _ _ hs h => (step_keepsTraffic h hs).1

/-- Settles O59, with the slots' invariants, on which the credits' rest. -/
theorem stepKeepsTheCredits : Obligations.StepKeepsTheCredits := by
  unfold Obligations.StepKeepsTheCredits
  intro s t ⟨hslots, hcredits⟩ h
  obtain ⟨ht, hc⟩ := step_keepsTraffic h hslots
  exact ⟨ht, hc hcredits⟩

end Sys2Proof.Machine
end

section
/-! Most steps of the part are made of few updates. `works` names them once, and every shared operation is shown to be made of
them; what such a step leaves of the Ring Interface, of the queues and of the status block then follows by cases of the
updates. -/

namespace Sys2Proof.Machine

/-! ## The updates -/

/-- The Sideband Engine's invariants between the end of a job and the take of the next: `Sideband.ok` but for the places and
the head that wait to be taken (R28, R31, R33). -/
def Sideband.sound (sb : Sideband) : Prop :=
  sb.queue.length ≤ 16 ∧ sb.waiting.Pairwise (· < ·) ∧ (sb.phase = .idle ↔ sb.running = none) ∧
    (sb.failed = true → sb.phase = .stop)

/-- The running access goes on, or the same job's next access starts: the queues and the kind of the running job stand. -/
def Sideband.goesOnAs (sb sb' : Sideband) : Prop :=
  sb'.queue = sb.queue ∧ sb'.waiting = sb.waiting ∧ sb'.running.map Job.isRequest = sb.running.map Job.isRequest ∧
    (sb.sound → sb'.sound)

/-- The state but for the tracker, the moment, the counts of the Scrub Engine and the answers on the control link. -/
def sameBlocks (s t : State) : Prop :=
  t.slots = s.slots ∧ t.ring = s.ring ∧ t.sb = s.sb ∧ t.ext = s.ext ∧ t.ctl.queue = s.ctl.queue ∧
    t.ctl.heldBack = s.ctl.heldBack ∧ t.scrub.current = s.scrub.current

/-- `t` comes from `s` by the updates that slots, drains, jobs and extents are worked on with. -/
inductive works : State → State → Prop
  | refl (s : State) : works s s
  | trans {s t u : State} (h : works s t) (k : works t u) : works s u
  | slot (s : State) (n : SlotId) (f : Slot → Slot) : works s (s.modSlot n f)
  | post (s : State) (e : Event) : works s (s.postEvent e)
  | rest {s t : State} (h : sameBlocks s t) : works s t
  | extent (s : State) (x : Nat) (e : Extent) : works s (s.setExtent x e)
  | dirty (s : State) {x : Nat} (hx : x < 2048) : works s (s.makeDirty x)
  | cancel (s : State) (n : SlotId) : works s (s.cancelJobs n)
  | identity (s : State) (n : SlotId) : works s (s.handIdentity n)
  | engine (s : State) {sb : Sideband} (h : s.sb.goesOnAs sb) : works s { s with sb := sb }
  | jobEnd {s u : State} (hrun : s.sb.running.map Job.isRequest = some false) (h : works { s with sb := s.sb.idle } u) :
      works s u.nextJob
  | answered (s : State) (a : Response) (hrun : s.sb.running.map Job.isRequest = some true) :
      works s (({ s with sb := s.sb.idle } : State).respond a).nextJob
  | record (s : State) (q : Option Request) : works s { s with ring := { s.ring with held := q } }
  | scrub (s : State) : works s s.scrubTake
  | passed (s : State) {e : ScrubEngine} (h : e.current = none) : works s { s with scrub := e }

theorem ite_works {s t u : State} (p : Prop) [Decidable p] (h : works s t) (k : works s u) :
    works s (if p then t else u) := by
  split
  · exact h
  · exact k

theorem works_foldl {α : Type} (f : State → α → State) (hf : ∀ s a, works s (f s a)) (l : List α) (s : State) :
    works s (l.foldl f s) := by
  induction l generalizing s with
  | nil => exact .refl s
  | cons a l ih => exact (hf s a).trans (ih _)

/-! ## Extents, entries and jobs -/

theorem State.releaseExtent_works (s : State) (n : SlotId) (x : Nat) : works s (s.releaseExtent n x) := by
  have hlt : (s.extent x).state ≠ .free → x < 2048 := fun h => by
    by_contra hx
    rw [s.extent_free hx] at h
    exact h rfl
  unfold State.releaseExtent
  dsimp only
  split
  · rename_i hst
    exact ite_works _ (.dirty s (hlt (by simp [hst]))) (.refl s)
  · rename_i hst
    exact ite_works _ (.dirty s (hlt (by simp [hst]))) (.extent s x _)
  all_goals exact .refl s

theorem State.releaseExtents_works (s : State) (n : SlotId) (xs : List Nat) : works s (s.releaseExtents n xs) :=
  works_foldl _ (fun s x => s.releaseExtent_works n x) xs s

theorem State.releaseMap_works (s : State) (n : SlotId) : works s (s.releaseMap n) :=
  (s.releaseExtents_works n _).trans (.slot _ n _)

theorem State.powerOff_works (s : State) (n : SlotId) : works s (s.powerOff n) := (works.cancel s n).trans (.slot _ n _)

theorem State.shutDown_works (s : State) (n : SlotId) : works s (s.shutDown n) :=
  ((works.slot s n Slot.isolated).trans (State.powerOff_works _ n)).trans (State.releaseMap_works _ n)

theorem State.setEntry_works (s : State) (k : MemTag) (e : Entry) : works s (s.setEntry k e) :=
  .rest ⟨rfl, rfl, rfl, rfl, rfl, rfl, rfl⟩

theorem State.freeEntry_works (s : State) (k : MemTag) : works s (s.freeEntry k) :=
  .rest ⟨rfl, rfl, rfl, rfl, rfl, rfl, rfl⟩

theorem State.orphan_works (s : State) (n : SlotId) (sel : AccessKind → Bool) : works s (s.orphan n sel) := by
  refine .rest ⟨?_, ?_, ?_, ?_, ?_, ?_, ?_⟩ <;> simp

theorem State.freeWaiting_works (s : State) (n : SlotId) : works s (s.freeWaiting n) := by
  refine .rest ⟨by simp, by simp, by simp, by simp, by simp, by simp, ?_⟩
  unfold State.freeWaiting
  dsimp only
  split <;> rfl

theorem State.dropReads_works (s : State) (n : SlotId) : works s (s.dropReads n) :=
  ((s.orphan_works n _).trans (State.freeWaiting_works _ n)).trans (.slot _ n _)

/-! ## Frames -/

theorem State.violation_works (s : State) (n kind h c) : works s (s.violation n kind h c) := by
  unfold State.violation
  dsimp only
  exact ite_works _ ((works.slot s n _).trans (.post _ _)) (.slot s n _)

theorem State.admitRead_works (s : State) (n : SlotId) (f : ReadFrame) : works s (s.admitRead n f) := by
  unfold State.admitRead
  dsimp only
  refine ite_works _ (.slot s n _) (ite_works _ (.slot s n _) (ite_works _ (.slot s n _) ?_))
  split
  · exact (works.slot s n _).trans (State.violation_works _ n _ _ _)
  · exact .slot s n _

theorem State.admitWrite_works (s : State) (n : SlotId) (f : WriteFrame) : works s (s.admitWrite n f) := by
  unfold State.admitWrite
  dsimp only
  refine ite_works _ (.slot s n _) (ite_works _ (.slot s n _) ?_)
  split
  · exact s.violation_works n _ _ _
  · exact .slot s n _

theorem State.takeRead_works (s : State) (n : SlotId) (f : ReadFrame) : works s (s.takeRead n f) := by
  unfold State.takeRead
  dsimp only
  split
  · exact .refl s
  · exact .slot s n _
  · exact ite_works _ (.slot s n _) (.slot s n _)
  all_goals exact ite_works _ (.slot s n _) (s.admitRead_works n f)

theorem State.endWrite_works (s : State) (n : SlotId) (f : WriteFrame) : works s (s.endWrite n f) := by
  unfold State.endWrite
  dsimp only
  exact ite_works _ ((works.slot s n _).trans (.slot _ n _)) ((works.slot s n _).trans (State.admitWrite_works _ n f))

theorem State.takeWrite_works (s : State) (n : SlotId) (f : WriteFrame) : works s (s.takeWrite n f) := by
  unfold State.takeWrite
  dsimp only
  split
  · exact .refl s
  · exact .slot s n _
  all_goals
    refine ite_works _ (.slot s n _) ?_
    split
    · exact s.endWrite_works n _
    · exact ite_works _ (.slot s n _) (s.endWrite_works n f)

theorem State.takeStart_works (s : State) (n : SlotId) (h : FrameHeader) : works s (s.takeStart n h) := by
  unfold State.takeStart
  dsimp only
  split
  · exact .refl s
  · exact .slot s n _
  all_goals exact ite_works _ (.refl s) (ite_works _ (.slot s n _) (.slot s n _))

theorem State.takeItem_works (s : State) (n : SlotId) (i : LinkItem) : works s (s.takeItem n i) := by
  cases i with
  | start h => exact s.takeStart_works n h
  | read f => exact s.takeRead_works n f
  | write f => exact s.takeWrite_works n f

theorem State.reopen_works (s : State) (n : SlotId) (mode : Intake) : works s (s.reopen n mode) :=
  (works.slot s n _).trans (works_foldl _ (fun s i => s.takeItem_works n i) _ _)

/-! ## Slot transitions -/

theorem State.identify_works (s : State) (n : SlotId) : works s (s.identify n) :=
  (works.slot s n _).trans (.identity _ n)

theorem State.powerUp_works (s : State) (n : SlotId) : works s (s.powerUp n) := by
  unfold State.powerUp
  dsimp only
  exact ite_works _ ((works.slot s n _).trans (State.identify_works _ n)) (.slot s n _)

theorem State.faultSlot_works (s : State) (n : SlotId) (c : FaultCause) : works s (s.faultSlot n c) :=
  ((s.shutDown_works n).trans (.slot _ n _)).trans (.post _ _)

theorem State.endDrain_works (s : State) (n : SlotId) : works s (s.endDrain n) := by
  unfold State.endDrain
  dsimp only
  split
  all_goals exact ((s.shutDown_works n).trans (.slot _ n _)).trans (.post _ _)

theorem State.settleRetiring_works (s : State) (n : SlotId) : works s (s.settleRetiring n) :=
  ite_works _ (s.endDrain_works n) (.refl s)

theorem State.endVacating_works (s : State) (n : SlotId) : works s (s.endVacating n) := by
  unfold State.endVacating
  dsimp only
  exact ((s.releaseMap_works n).trans (.post _ _)).trans (.slot _ n _)

theorem State.settleVacating_works (s : State) (n : SlotId) : works s (s.settleVacating n) :=
  ite_works _ (s.endVacating_works n) (.refl s)

theorem State.completeHold_works (s : State) (n : SlotId) : works s (s.completeHold n) :=
  (works.slot s n _).trans (.post _ _)

theorem State.settleHolding_works (s : State) (n : SlotId) : works s (s.settleHolding n) :=
  ite_works _ (s.completeHold_works n) (.refl s)

theorem State.linkDownDrain_works (s : State) (n : SlotId) : works s (s.linkDownDrain n) :=
  ((works.slot s n Slot.isolated).trans (State.dropReads_works _ n)).trans (State.settleRetiring_works _ n)

theorem State.retireSlot_works (s : State) (n : SlotId) : works s (s.retireSlot n) := by
  unfold State.retireSlot
  split
  case h_1 | h_2 | h_3 | h_4 => exact ((s.shutDown_works n).trans (.slot _ n _)).trans (.post _ _)
  case h_5 | h_6 | h_7 | h_8 =>
    exact ite_works _ ((works.slot s n _).trans (State.endDrain_works _ n)) ((works.slot s n _).trans (State.reopen_works _ n _))
  case h_9 => exact (works.slot s n _).trans (State.linkDownDrain_works _ n)
  all_goals exact .refl s

theorem State.vacate_works (s : State) (n : SlotId) : works s (s.vacate n) := by
  have hlines := (works.slot s n Slot.isolated).trans (State.powerOff_works _ n)
  exact (((hlines.trans (.slot _ n _)).trans (State.dropReads_works _ n)).trans (.post _ _)).trans
    (State.settleVacating_works _ n)

/-! ## Lines and timers -/

theorem State.presenceRise_works (s : State) (n : SlotId) : works s (s.presenceRise n) := by
  unfold State.presenceRise
  dsimp only
  refine ite_works _ (.slot s n _) ?_
  split
  · exact (works.slot s n _).trans (.slot _ n _)
  · exact (works.slot s n _).trans (.slot _ n _)
  all_goals exact .slot s n _

theorem State.pullOut_works (s : State) (n : SlotId) : works s (s.pullOut n) :=
  ((s.shutDown_works n).trans (.slot _ n _)).trans (.post _ _)

theorem State.presenceDrop_works (s : State) (n : SlotId) : works s (s.presenceDrop n) := by
  unfold State.presenceDrop
  dsimp only
  refine ite_works _ (.slot s n _) ?_
  split
  case h_1 | h_2 => exact .slot s n _
  case h_3 => exact (works.slot s n _).trans (.slot _ n _)
  case h_4 | h_5 | h_6 | h_7 | h_8 | h_9 => exact (works.slot s n _).trans (State.pullOut_works _ n)
  all_goals exact (works.slot s n _).trans (State.vacate_works _ n)

theorem State.ejectorEdge_works (s : State) (n : SlotId) (opened : Bool) : works s (s.ejectorEdge n opened) := by
  unfold State.ejectorEdge
  dsimp only
  exact ite_works _ ((works.slot s n _).trans (.post _ _)) (.slot s n _)

theorem State.ejectorOpened_works (s : State) (n : SlotId) : works s (s.ejectorOpened n) := by
  unfold State.ejectorOpened
  dsimp only
  exact ite_works _ ((s.ejectorEdge_works n true).trans (State.retireSlot_works _ n)) (s.ejectorEdge_works n true)

theorem State.pwrGoodRise_works (s : State) (n : SlotId) : works s (s.pwrGoodRise n) := by
  unfold State.pwrGoodRise
  dsimp only
  exact ite_works _ ((works.slot s n _).trans (State.identify_works _ n)) (.slot s n _)

theorem State.losePower_works (s : State) (n : SlotId) : works s (s.losePower n) := by
  have hlines := (works.slot s n Slot.isolated).trans (State.powerOff_works _ n)
  exact (hlines.trans (.slot _ n _)).trans (State.linkDownDrain_works _ n)

theorem State.losePowerRetiring_works (s : State) (n : SlotId) : works s (s.losePowerRetiring n) := by
  have hlines := (works.slot s n Slot.isolated).trans (State.powerOff_works _ n)
  exact (hlines.trans (.slot _ n _)).trans (State.linkDownDrain_works _ n)

theorem State.pwrGoodDrop_works (s : State) (n : SlotId) : works s (s.pwrGoodDrop n) := by
  unfold State.pwrGoodDrop
  dsimp only
  refine ite_works _ (.slot s n _) ?_
  split
  case h_1 | h_2 | h_3 => exact (works.slot s n _).trans (State.faultSlot_works _ n _)
  case h_4 | h_5 | h_6 | h_7 | h_8 => exact (works.slot s n _).trans (State.losePower_works _ n)
  case h_9 => exact ite_works _ ((works.slot s n _).trans (State.losePowerRetiring_works _ n)) (.slot s n _)
  all_goals exact .slot s n _

theorem State.goLive_works (s : State) (n : SlotId) (credit : Nat) : works s (s.goLive n credit) :=
  (works.slot s n _).trans (.post _ _)

theorem State.rampStep_works (s : State) (n : SlotId) : works s (s.rampStep n) := by
  unfold State.rampStep
  dsimp only
  exact ite_works _ (s.goLive_works n _) (.slot s n _)

theorem State.failHold_works (s : State) (n : SlotId) : works s (s.failHold n) :=
  ((works.slot s n _).trans (State.reopen_works _ n _)).trans (.post _ _)

theorem State.forceDrain_works (s : State) (n : SlotId) : works s (s.forceDrain n) :=
  ((((works.slot s n _).trans (State.orphan_works _ n _)).trans (State.freeWaiting_works _ n)).trans (.slot _ n _)).trans
    (State.endDrain_works _ n)

theorem State.forceVacating_works (s : State) (n : SlotId) : works s (s.forceVacating n) :=
  (((works.slot s n _).trans (State.orphan_works _ n _)).trans (.slot _ n _)).trans (State.endVacating_works _ n)

theorem State.whenDrained_works {s : State} {n : SlotId} {st : SlotState} {f : State → State} (hf : works s (f s)) :
    works s (s.whenDrained n st f) := ite_works _ hf (.refl s)

/-! ## Links and probes -/

theorem State.linkDown_works (s : State) (n : SlotId) : works s (s.linkDown n) := by
  unfold State.linkDown
  refine ite_works _ (.refl s) ?_
  split
  case h_1 => exact s.faultSlot_works n _
  case h_2 | h_3 | h_4 | h_5 =>
    refine ite_works _ ?_ ((works.slot s n _).trans (.post _ _))
    exact (((works.slot s n Slot.loseLink).trans (.post _ _)).trans (.slot _ n _)).trans (State.linkDownDrain_works _ n)
  case h_6 => exact s.linkDownDrain_works n
  all_goals exact .refl s

theorem State.deliverOne_works (s : State) (n : SlotId) (k : MemTag) : works s (s.deliverOne n k) := by
  unfold State.deliverOne
  dsimp only
  split
  · exact ite_works _ ((works.slot s n _).trans (State.freeEntry_works _ k))
      ((works.slot s n _).trans (State.setEntry_works _ k _))
  all_goals exact .refl s

theorem State.deliverHeld_works (s : State) (n : SlotId) : works s (s.deliverHeld n) :=
  (works_foldl _ (fun s k => s.deliverOne_works n k) _ s).trans (.slot _ n _)

theorem State.recover_works (s : State) (n : SlotId) (back : SlotState) : works s (s.recover n back) := by
  have hpost := ((s.deliverHeld_works n).trans (.slot _ n fun sl => Slot.regrant
    { sl with state := back, resume := none, linkUp := true, timer := resumeTimer back s.now s.params })).trans
      (.post _ (.linkRecovered n (s.slot n).incarnation back (s.slot n).holdList.length (s.heldTimeouts n)))
  unfold State.recover
  dsimp only
  exact ite_works _ (hpost.trans (State.settleHolding_works _ n)) hpost

theorem State.linkUp_works (s : State) (n : SlotId) : works s (s.linkUp n) := by
  unfold State.linkUp
  dsimp only
  refine ite_works _ (.refl s) ?_
  split
  case h_1 => exact .slot s n _
  case h_2 => exact s.recover_works n _
  all_goals exact .refl s

theorem State.fromLink_works (s : State) (n : SlotId) (i : LinkItem) : works s (s.fromLink n i) :=
  ite_works _ (s.takeItem_works n i) (.refl s)

theorem State.keyAccepted_works (s : State) (n : SlotId) : works s (s.keyAccepted n) := by
  refine ite_works _ ?_ (.refl s)
  unfold State.settle
  dsimp only
  exact ite_works _ ((works.slot s n _).trans (State.goLive_works _ n _)) (.slot s n _)

theorem State.probeFault_works (s : State) (n : SlotId) : works s (s.probeFault n) := by
  unfold State.probeFault
  split
  · exact s.faultSlot_works n _
  · exact .refl s

/-! ## The management line and time -/

theorem State.identityOutcome_works (s : State) (n : SlotId) (ws : Option (List Half)) : works s (s.identityOutcome n ws) := by
  refine ite_works _ ?_ (.refl s)
  split
  · exact (works.slot s n _).trans (State.faultSlot_works _ n _)
  · exact ite_works _ ((works.slot s n _).trans (.post _ _)) ((works.slot s n _).trans (State.faultSlot_works _ n _))

theorem State.failJob_works (s : State) : works s s.failJob := by
  unfold State.failJob
  dsimp only
  split
  · exact .refl s
  · rename_i hrun
    exact .answered s _ (by simp [hrun, Job.isRequest])
  · rename_i hrun
    exact .jobEnd (by simp [hrun, Job.isRequest]) (State.identityOutcome_works _ _ none)

/-- An access that starts is sound (R31). -/
theorem Sideband.startAccess_goesOnAs {sb : Sideband} {j j' : Job} (now : Nat) (low : Bool) (hrun : sb.running = some j)
    (hkind : j'.isRequest = j.isRequest) : sb.goesOnAs (sb.startAccess j' now low) := by
  refine ⟨rfl, rfl, by simp [Sideband.startAccess, hrun, hkind], fun ⟨hq, hw, _, _⟩ => ⟨hq, hw, ?_, fun h => ?_⟩⟩
  · simp only [Sideband.startAccess]
    cases low <;> simp
  · simp [Sideband.startAccess] at h

theorem State.succeedAccess_works (s : State) (data : Half) : works s (s.succeedAccess data) := by
  unfold State.succeedAccess
  dsimp only
  split
  · exact .refl s
  · rename_i hrun
    exact .answered s _ (by simp [hrun, Job.isRequest])
  · rename_i hrun
    exact ite_works _ (.engine s (Sideband.startAccess_goesOnAs _ _ hrun rfl))
      (.jobEnd (by simp [hrun, Job.isRequest]) (State.identityOutcome_works _ _ _))

/-- The running access moves to another phase. -/
theorem Sideband.goesOnAs_phase {sb sb' : Sideband} (hq : sb'.queue = sb.queue) (hw : sb'.waiting = sb.waiting)
    (hrun : sb'.running = sb.running) (hidle : sb'.phase = .idle ↔ sb.phase = .idle)
    (hfail : sb.sound → sb'.failed = true → sb'.phase = .stop) : sb.goesOnAs sb' := by
  refine ⟨hq, hw, by rw [hrun], fun hs => ⟨hq ▸ hs.1, hw ▸ hs.2.1, ?_, hfail hs⟩⟩
  rw [hidle, hrun]
  exact hs.2.2.1

theorem State.failAccess_works (s : State) : works s s.failAccess := by
  unfold State.failAccess
  split
  · rename_i hph
    exact .engine s (Sideband.goesOnAs_phase rfl rfl rfl (by simp [Sideband.sendStopMark, hph]) fun _ _ => rfl)
  · exact s.failJob_works

theorem State.failOverdue_works (s : State) : works s s.failOverdue := by
  unfold State.failOverdue
  split
  case h_1 | h_2 => exact ite_works _ s.failAccess_works (.refl s)
  all_goals exact .refl s

theorem State.endFailed_works (s : State) : works s s.endFailed := ite_works _ s.failJob_works (.refl s)

/-- A failed access stays in STOP (R30). -/
theorem Sideband.pass_goesOnAs (sb : Sideband) (now : Nat) : sb.goesOnAs (sb.pass now) := by
  have hne : sb.sound → sb.failed = true → sb.phase = .stop := fun h => h.2.2.2
  unfold Sideband.pass Sideband.afterCommand
  split
  case h_1 hph =>
    split
    · split
      all_goals exact Sideband.goesOnAs_phase rfl rfl rfl (by simp [hph]) fun hs h => absurd (hph.symm.trans (hne hs h)) (by simp)
    · exact Sideband.goesOnAs_phase rfl rfl rfl Iff.rfl hne
  case h_2 hph =>
    split
    · exact Sideband.goesOnAs_phase rfl rfl rfl (by simp [hph]) fun hs h => absurd (hph.symm.trans (hne hs h)) (by simp)
    · exact Sideband.goesOnAs_phase rfl rfl rfl Iff.rfl hne
  case h_3 hph =>
    split
    · exact Sideband.goesOnAs_phase rfl rfl rfl (by simp [hph]) fun _ _ => rfl
    · exact Sideband.goesOnAs_phase rfl rfl rfl Iff.rfl hne
  all_goals exact Sideband.goesOnAs_phase rfl rfl rfl Iff.rfl hne

theorem State.sampleLine_works (s : State) : works s s.sampleLine := by
  unfold State.sampleLine
  split
  case h_1 j hph hrun =>
    split
    · have hmove : s.sb.goesOnAs { s.sb with phase := .command, phaseEnds := s.now + 18 } :=
        Sideband.goesOnAs_phase rfl rfl rfl (by simp [hph]) fun hs h => absurd (hph.symm.trans (hs.2.2.2 h)) (by simp)
      have hline := works.slot s j.slot fun sl => { sl with sbdatLow := false }
      exact (hline.trans (.engine _ hmove)).trans (.rest ⟨rfl, rfl, rfl, rfl, rfl, rfl, rfl⟩)
    · exact .rest ⟨rfl, rfl, rfl, rfl, rfl, rfl, rfl⟩
  all_goals exact .refl s

theorem State.tick_works (s : State) : works s s.tick := by
  have hnow : works s { s.failOverdue with now := s.now + 1 } :=
    s.failOverdue_works.trans (.rest ⟨rfl, rfl, rfl, rfl, rfl, rfl, rfl⟩)
  exact ((hnow.trans (State.sampleLine_works _)).trans (.engine _ (Sideband.pass_goesOnAs _ _))).trans
    (State.endFailed_works _)

theorem State.elapse_works (k : Nat) (s : State) : works s (s.elapse k) := by
  induction k generalizing s with
  | zero => exact .refl s
  | succ k ih => exact s.tick_works.trans (ih _)

theorem State.reach_works (s : State) (m : Nat) : works s (s.reach m) := s.elapse_works _

theorem State.expiry_works {s : State} {n : SlotId} {st : SlotState} {f : State → State} (hf : ∀ u, works u (f u)) :
    works s (s.expiry n st f) := ite_works _ ((s.reach_works _).trans (hf _)) (.refl s)

theorem State.hearAcknowledgement_works (s : State) (n : SlotId) : works s (s.hearAcknowledgement n) := by
  have hheard : ∀ u : State, works u u.acknowledge := fun u => by
    unfold State.acknowledge
    split
    case h_1 hph =>
      refine ite_works _ u.failAccess_works (.engine u ?_)
      unfold Sideband.acknowledged
      have hne : u.sb.sound → u.sb.failed = true → u.sb.phase = .stop := fun h => h.2.2.2
      split
      · exact Sideband.goesOnAs_phase rfl rfl rfl (by simp [hph]) fun _ _ => rfl
      · exact Sideband.goesOnAs_phase rfl rfl rfl (by simp [hph]) fun hs h => absurd (hph.symm.trans (hne hs h)) (by simp)
    all_goals exact .refl u
  unfold State.hearAcknowledgement
  dsimp only
  exact ite_works _ (.refl s) (ite_works _ ((works.slot s n _).trans (hheard _)) (.slot s n _))

theorem State.expireAccess_works (s : State) : works s s.expireAccess := by
  have htake : ∀ u : State, works u u.takeExpiry := fun u => by
    unfold State.takeExpiry
    split
    case h_1 | h_2 => exact u.failAccess_works
    case h_3 | h_4 => exact .engine u (Sideband.goesOnAs_phase rfl rfl rfl Iff.rfl fun hs h => hs.2.2.2 h)
    all_goals exact .refl u
  unfold State.expireAccess
  split
  case h_1 | h_2 | h_3 | h_4 => exact ite_works _ (.refl s) ((s.reach_works _).trans (htake _))
  all_goals exact .refl s

theorem State.endAccess_works (s : State) (data : Half) (high : Bool) : works s (s.endAccess data high) := by
  unfold State.endAccess
  split
  case h_1 j _ _ | h_2 j _ _ =>
    have hreach := (works.slot s j.slot fun sl => { sl with sbdatLow := !high }).trans (State.reach_works _ s.sb.stopEnds)
    exact ite_works _ (hreach.trans (State.endFailed_works _)) (hreach.trans (State.succeedAccess_works _ data))
  all_goals exact .refl s

/-! ## The Scrub Engine -/

theorem State.passEnd_works (s : State) : works s s.passEnd := by
  unfold State.passEnd
  split
  · exact .refl s
  · rename_i x _
    refine ite_works _ ?_ (.refl s)
    have hset := works.extent s x ⟨if s.scrub.errors = 0 then .free else .bad, none, 0, false⟩
    have hend := (ite_works (s.scrub.errors = 0) hset
      (hset.trans (.post _ (.extentBad x s.scrub.errors s.scrub.timeouts)))).trans
        (.passed _ (e := ⟨none, 0, 0, 0, 0, (if s.scrub.errors = 0 then
          s.setExtent x ⟨if s.scrub.errors = 0 then .free else .bad, none, 0, false⟩
          else (s.setExtent x ⟨if s.scrub.errors = 0 then .free else .bad, none, 0, false⟩).postEvent
            (.extentBad x s.scrub.errors s.scrub.timeouts)).scrub.deferral⟩) rfl)
    exact ite_works _ (hend.trans (.post _ _)) (hend.trans (.scrub _))

/-! ## Completions and timeouts of slots and of SCRUB -/

theorem State.slotWriteError_works (s : State) (n : SlotId) (e : Entry) (st : EntryState) :
    works s (s.slotWriteError n e st) := (works.slot s n _).trans (.post _ _)

theorem State.completeRead_works (s : State) (k : MemTag) (n : SlotId) (e : Entry) (tag : BladeTag) (ok : Bool)
    (data : List Beat) : works s (s.completeRead k n e tag ok data) := by
  have hcount := ite_works (ok = true) (.refl s) (.slot s n fun sl => sl.count Counters.addMemerr)
  unfold State.completeRead
  dsimp only
  exact ite_works _ ((hcount.trans (State.freeEntry_works _ k)).trans (.slot _ n _))
    (ite_works _ ((hcount.trans (State.setEntry_works _ k _)).trans (.slot _ n _)) (hcount.trans (State.freeEntry_works _ k)))

theorem State.completeLate_works (s : State) (k : MemTag) (e : Entry) (ok : Bool) : works s (s.completeLate k e ok) := by
  unfold State.completeLate
  dsimp only
  split
  · rename_i n _
    refine (works.slot s n fun sl => sl.count Counters.addLate).trans ?_
    exact ite_works _ (State.setEntry_works _ k _) (ite_works _
      ((State.freeEntry_works _ k).trans (State.slotWriteError_works _ n _ _)) (State.freeEntry_works _ k))
  · exact ite_works _ ((s.freeEntry_works k).trans (.post _ _)) (s.freeEntry_works k)
  all_goals exact s.freeEntry_works k

theorem State.completeOrphan_works (s : State) (k : MemTag) (e : Entry) (ok : Bool) : works s (s.completeOrphan k e ok) := by
  unfold State.completeOrphan
  dsimp only
  refine ite_works _ ?_ (s.freeEntry_works k)
  split
  · exact (s.freeEntry_works k).trans (State.slotWriteError_works _ _ _ _)
  · exact (s.freeEntry_works k).trans (.post _ _)
  all_goals exact s.freeEntry_works k

theorem State.slotTimeout_works (s : State) (k : MemTag) (n : SlotId) (e : Entry) : works s (s.slotTimeout k n e) := by
  have hlate := (works.slot s n fun sl => sl.count Counters.addTimeout).trans
    (State.setEntry_works _ k { e with state := .late })
  have hheld := (works.slot s n fun sl => sl.count Counters.addTimeout).trans
    (State.setEntry_works _ k { e with state := .late, held := .timeout })
  unfold State.slotTimeout
  dsimp only
  split
  · exact ite_works _ (hlate.trans (.slot _ n _)) (ite_works _ (hheld.trans (.slot _ n _)) hlate)
  all_goals exact hlate

/-! ## Requests -/

/-- Work, the answer to the request in execution, and work after it. -/
def worksAnswering (s t : State) : Prop := ∃ (u : State) (a : Response), works s u ∧ works (u.finish a) t

theorem worksAnswering_finish (s : State) (a : Response) : worksAnswering s (s.finish a) := ⟨s, a, .refl s, .refl _⟩

theorem works.finish {s t : State} (h : works s t) (a : Response) : worksAnswering s (t.finish a) := ⟨t, a, h, .refl _⟩

theorem worksAnswering.trans {s t u : State} (h : worksAnswering s t) (k : works t u) : worksAnswering s u := by
  obtain ⟨v, a, hv, ht⟩ := h
  exact ⟨v, a, hv, ht.trans k⟩

theorem ite_worksAnswering {s t u : State} (p : Prop) [Decidable p] (h : worksAnswering s t) (k : worksAnswering s u) :
    worksAnswering s (if p then t else u) := by
  split
  · exact h
  · exact k

theorem State.admitSlot_works (s : State) (r : Request) (n : SlotId) : worksAnswering s (s.admitSlot r n) := by
  refine ite_worksAnswering _ (worksAnswering_finish s _) ?_
  split
  · exact worksAnswering_finish s _
  · exact (works.slot s n _).finish _

theorem State.stageSlot_works (s : State) (r : Request) (n : SlotId) : worksAnswering s (s.stageSlot r n) := by
  refine ite_worksAnswering _ (worksAnswering_finish s _) ?_
  split
  · exact worksAnswering_finish s _
  · exact (works.slot s n _).finish _

theorem State.claimExtent_works (s : State) (n : SlotId) (old : List MapEntry) (x : Nat) : works s (s.claimExtent n old x) := by
  unfold State.claimExtent
  split
  · exact .extent s x _
  · exact ite_works _ (.refl s) (.extent s x _)
  all_goals exact .refl s

theorem State.install_works (s : State) (r : Request) (n : SlotId) : worksAnswering s (s.install r n) := by
  have hclaim := works_foldl _ (fun t x => State.claimExtent_works t n (mapEntries (s.slot n).map) x)
    ((mapEntries (s.slot n).staging).map MapEntry.extent) s
  exact ((hclaim.trans (State.releaseExtents_works _ n _)).trans (.slot _ n _)).finish _

theorem State.commitSlot_works (s : State) (r : Request) (n : SlotId) : worksAnswering s (s.commitSlot r n) := by
  refine ite_worksAnswering _ (worksAnswering_finish s _) ?_
  split
  · exact worksAnswering_finish s _
  · exact s.install_works r n

theorem State.holdSlot_works (s : State) (r : Request) (n : SlotId) : worksAnswering s (s.holdSlot r n) :=
  ite_worksAnswering _ (worksAnswering_finish s _)
    (((worksAnswering_finish s _).trans (.slot _ n _)).trans (State.settleHolding_works _ n))

theorem State.resumeSlot_works (s : State) (r : Request) (n : SlotId) : worksAnswering s (s.resumeSlot r n) :=
  ite_worksAnswering _ (worksAnswering_finish s _) (((works.slot s n _).trans (State.reopen_works _ n _)).finish _)

theorem State.retireRequest_works (s : State) (r : Request) (n : SlotId) : worksAnswering s (s.retireRequest r n) :=
  ite_worksAnswering _ (worksAnswering_finish s _) ((worksAnswering_finish s _).trans (State.retireSlot_works _ n))

theorem State.restartSlot_works (s : State) (r : Request) (n : SlotId) : worksAnswering s (s.restartSlot r n) :=
  ite_worksAnswering _ (worksAnswering_finish s _)
    (((worksAnswering_finish s _).trans (.slot _ n _)).trans (State.powerUp_works _ n))

theorem State.publishExtent_works (s : State) (r : Request) : worksAnswering s (s.publishExtent r) :=
  ite_worksAnswering _ (worksAnswering_finish s _)
    (ite_worksAnswering _ ((works.extent s _ _).finish _) (worksAnswering_finish s _))

theorem State.withdrawExtent_works (s : State) (r : Request) : worksAnswering s (s.withdrawExtent r) := by
  unfold State.withdrawExtent
  dsimp only
  split
  · exact worksAnswering_finish s _
  split
  · rename_i hst
    have hlt : r.extentAt4.toNat < 2048 := by
      by_contra hx
      rw [s.extent_free hx] at hst
      cases hst.1
    exact ite_worksAnswering _ ((works.dirty s hlt).finish _) ((works.extent s _ _).finish _)
  · exact worksAnswering_finish s _

theorem State.querySlot_works (s : State) (r : Request) (n : SlotId) : worksAnswering s (s.querySlot r n) :=
  (ite_works _ (.slot s n _) (.refl s)).finish _

/-- The commands on slots, links, timers, the management line and the Scrub Engine. -/
def onlyWorks : Instr → Bool
  | .presenceRise _ | .presenceDrop _ | .ejectorOpened _ | .ejectorClosed _ | .pwrGoodRise _ | .pwrGoodDrop _
  | .debounceExpiry _ | .powerLimitExpiry _ | .probeLimitExpiry _ | .rampStepExpiry _ | .holdLimitExpiry _
  | .graceExpiry _ | .drainLimitExpiry _ | .vacatingDrainLimitExpiry _ | .linkUp _ | .linkDown _ | .readFrame _ _
  | .writeFrame _ _ | .frameStart _ _ | .keyAccepted _ | .probeFault _ | .sidebandAccessEnd _ _ | .sidebandTimeoutExpiry
  | .sidebandAcknowledgement _ | .scrubTake | .scrubPassEnd | .drainEnd _ | .holdDrainComplete _ | .vacatingEnd _ => true
  | .reset | .grant _ | .memoryCompletion _ _ _ | .completionTimeout _ | .requestTake | .admission | .stage | .commit | .hold
  | .resume | .retire | .restart | .publish | .withdraw | .sideband | .query | .detach | .responseWrite | .statusUnitWrite
  | .controlRequest _ => false

theorem exec_works {s t : State} (c : Instr) (hc : onlyWorks c = true) (h : exec c s = .next t) : works s t := by
  cases c with
  | presenceRise n => obtain rfl := Host.Outcome.next.inj h; exact s.presenceRise_works n
  | presenceDrop n => obtain rfl := Host.Outcome.next.inj h; exact s.presenceDrop_works n
  | ejectorOpened n => obtain rfl := Host.Outcome.next.inj h; exact s.ejectorOpened_works n
  | ejectorClosed n => obtain rfl := Host.Outcome.next.inj h; exact s.ejectorEdge_works n false
  | pwrGoodRise n => obtain rfl := Host.Outcome.next.inj h; exact s.pwrGoodRise_works n
  | pwrGoodDrop n => obtain rfl := Host.Outcome.next.inj h; exact s.pwrGoodDrop_works n
  | debounceExpiry n => obtain rfl := Host.Outcome.next.inj h; exact State.expiry_works fun u => u.powerUp_works n
  | powerLimitExpiry n => obtain rfl := Host.Outcome.next.inj h; exact State.expiry_works fun u => u.faultSlot_works n _
  | probeLimitExpiry n => obtain rfl := Host.Outcome.next.inj h; exact State.expiry_works fun u => u.faultSlot_works n _
  | rampStepExpiry n => obtain rfl := Host.Outcome.next.inj h; exact State.expiry_works fun u => u.rampStep_works n
  | holdLimitExpiry n => obtain rfl := Host.Outcome.next.inj h; exact State.expiry_works fun u => u.failHold_works n
  | graceExpiry n => obtain rfl := Host.Outcome.next.inj h; exact State.expiry_works fun u => (works.slot u n _).trans (State.linkDownDrain_works _ n)
  | drainLimitExpiry n => obtain rfl := Host.Outcome.next.inj h; exact State.expiry_works fun u => u.forceDrain_works n
  | vacatingDrainLimitExpiry n => obtain rfl := Host.Outcome.next.inj h; exact State.expiry_works fun u => u.forceVacating_works n
  | linkUp n => obtain rfl := Host.Outcome.next.inj h; exact s.linkUp_works n
  | linkDown n => obtain rfl := Host.Outcome.next.inj h; exact s.linkDown_works n
  | readFrame n f => obtain rfl := Host.Outcome.next.inj h; exact s.fromLink_works n _
  | writeFrame n f => obtain rfl := Host.Outcome.next.inj h; exact s.fromLink_works n _
  | frameStart n f => obtain rfl := Host.Outcome.next.inj h; exact s.fromLink_works n _
  | keyAccepted n => obtain rfl := Host.Outcome.next.inj h; exact s.keyAccepted_works n
  | probeFault n => obtain rfl := Host.Outcome.next.inj h; exact s.probeFault_works n
  | sidebandAccessEnd data high => obtain rfl := Host.Outcome.next.inj h; exact s.endAccess_works data high
  | sidebandTimeoutExpiry => obtain rfl := Host.Outcome.next.inj h; exact s.expireAccess_works
  | sidebandAcknowledgement n => obtain rfl := Host.Outcome.next.inj h; exact s.hearAcknowledgement_works n
  | scrubTake => obtain rfl := Host.Outcome.next.inj h; exact .scrub s
  | scrubPassEnd => obtain rfl := Host.Outcome.next.inj h; exact s.passEnd_works
  | drainEnd n => obtain rfl := Host.Outcome.next.inj h; exact State.whenDrained_works (s.endDrain_works n)
  | holdDrainComplete n => obtain rfl := Host.Outcome.next.inj h; exact State.whenDrained_works (s.completeHold_works n)
  | vacatingEnd n => obtain rfl := Host.Outcome.next.inj h; exact State.whenDrained_works (s.endVacating_works n)
  | _ => cases hc

end Sys2Proof.Machine
end

section
/-! The Ring Interface's own invariants and the bounds of the extents are kept by every step (R82, R83, R168, R180, R187,
R188), and the state after RESET has all the invariants. -/

namespace Sys2Proof.Machine

/-! ## What a step must leave of the Ring Interface and the extents -/

/-- The fields that `Ring.ok` reads. -/
def sameOk (r r' : Ring) : Prop :=
  r'.attn = r.attn ∧ r'.mirror = r.mirror ∧ r'.state = r.state ∧ r'.queue = r.queue ∧ r'.waiting = r.waiting

theorem sameOk.ok {r r' : Ring} (h : sameOk r r') (hr : r.ok) : r'.ok := by
  obtain ⟨ha, hm, hs, hq, hw⟩ := h
  unfold Ring.ok Ring.anyFull at hr ⊢
  rwa [ha, hm, hs, hq, hw]

/-- The fields that `State.extentsOk` reads. -/
theorem extentsOk_of_eq {s t : State} (hcount : t.ext.count = s.ext.count) (hq : t.ext.queue = s.ext.queue)
    (hcur : t.scrub.current = s.scrub.current) (hs : s.extentsOk) : t.extentsOk := by
  unfold State.extentsOk at hs ⊢
  rwa [hcount, hq, hcur]

theorem sameOk_stale {r r' : Ring} (h : r' = { r with stale := r'.stale }) : sameOk r r' := by
  rw [h]; exact ⟨rfl, rfl, rfl, rfl, rfl⟩

/-- The head of the scrub queue taken or deferred stays below the bound (R170). -/
theorem State.scrubTake_ringOk {s : State} (h : s.ringOk) : s.scrubTake.ringOk := by
  obtain ⟨hr, hc, hq, hcur⟩ := h
  unfold State.scrubTake
  split
  · exact ⟨hr, hc, hq, hcur⟩
  rename_i x rest hqueue
  rw [hqueue] at hq
  split
  · exact ⟨hr, hc, by rw [hqueue]; exact hq, hcur⟩
  split
  · refine ⟨hr, hc, fun y hy => hq y ?_, hcur⟩
    rw [List.mem_append, List.mem_singleton] at hy
    exact List.mem_cons.2 hy.symm
  · refine ⟨sameOk.ok ?_ hr, ?_, fun y hy => hq y (List.mem_cons_of_mem _ hy), fun y hy => ?_⟩
    · have h1 := sameOk_stale (s.setExtent_ring x ⟨.scrubbing, none, 0, false⟩)
      have h2 := sameOk_stale ((s.setExtent x ⟨.scrubbing, none, 0, false⟩).ring.markStale_eq .header)
      simp only [sameOk] at h1 h2 ⊢
      simp_all
    · change (s.setExtent x _).ext.count ≤ 2048
      rw [State.setExtent_ext]; exact hc
    · obtain rfl := Option.some.inj hy
      exact hq _ List.mem_cons_self

theorem works.ringOk {s t : State} (h : works s t) (hs : s.ringOk) : t.ringOk := by
  induction h with
  | refl s => exact hs
  | trans _ _ ih1 ih2 => exact ih2 (ih1 hs)
  | slot s n f => exact ⟨sameOk.ok (by simp [sameOk]) hs.1, hs.2⟩
  | post s e => exact ⟨sameOk.ok (by simp [sameOk, State.postEvent]) hs.1, hs.2⟩
  | rest h =>
    obtain ⟨-, hr, -, he, -, -, hcur⟩ := h
    exact ⟨by rw [hr]; exact hs.1, extentsOk_of_eq (by rw [he]) (by rw [he]) hcur hs.2⟩
  | extent s x e =>
    refine ⟨sameOk.ok (sameOk_stale (s.setExtent_ring x e)) hs.1, extentsOk_of_eq ?_ ?_ (by simp) hs.2⟩ <;>
      rw [State.setExtent_ext]
  | @dirty s x hx =>
    obtain ⟨hr, hc, hq, hcur⟩ := hs
    refine ⟨sameOk.ok (sameOk_stale (s.makeDirty_ring x)) hr, ?_, fun y hy => ?_, fun y hy => ?_⟩
    · rw [State.makeDirty_ext]; exact hc
    · rw [State.makeDirty_ext, List.mem_append, List.mem_singleton] at hy
      rcases hy with hy | rfl
      · exact hq y hy
      · exact hx
    · rw [State.makeDirty_scrub] at hy; exact hcur y hy
  | cancel s n =>
    refine ⟨sameOk.ok ?_ hs.1, extentsOk_of_eq (by simp) (by simp) (by simp) hs.2⟩
    rw [State.cancelJobs_ring]
    exact ⟨rfl, rfl, rfl, rfl, rfl⟩
  | identity s n => exact ⟨by simpa using hs.1, extentsOk_of_eq (by simp) (by simp) (by simp) hs.2⟩
  | engine s h => exact hs
  | jobEnd _ _ ih =>
    have hu := ih hs
    exact ⟨by simpa using hu.1, extentsOk_of_eq (by simp) (by simp) (by simp) hu.2⟩
  | answered s a _ =>
    exact ⟨sameOk.ok (by simp [sameOk, State.respond]) hs.1, extentsOk_of_eq (by simp) (by simp) (by simp) hs.2⟩
  | record s q => exact ⟨sameOk.ok ⟨rfl, rfl, rfl, rfl, rfl⟩ hs.1, hs.2⟩
  | scrub s => exact State.scrubTake_ringOk hs
  | passed s h =>
    refine ⟨hs.1, hs.2.1, hs.2.2.1, fun x hx => ?_⟩
    rw [h] at hx
    cases hx

theorem State.finish_ringOk {s : State} (a : Response) (h : s.ringOk) : (s.finish a).ringOk :=
  ⟨sameOk.ok ⟨rfl, rfl, rfl, rfl, rfl⟩ h.1, h.2⟩

theorem worksAnswering.ringOk {s t : State} (h : worksAnswering s t) (hs : s.ringOk) : t.ringOk := by
  obtain ⟨u, a, hu, ht⟩ := h
  exact ht.ringOk (State.finish_ringOk a (hu.ringOk hs))

/-! ## The ring request queue (R188) -/

theorem Ring.enqueue_ok {r : Ring} (op : RingOp) (h : r.ok) : (r.enqueue op).ok := by
  obtain ⟨ha, hd, hq, hw⟩ := h
  unfold Ring.enqueue
  split
  · rename_i hroom
    refine ⟨ha, hd, ?_, .inl hroom.2⟩
    simp only [List.length_append, List.length_cons, List.length_nil]
    omega
  · rename_i hfull
    have hlen : r.queue.length = 16 := by
      by_contra hne
      exact hfull ⟨by omega, hw.resolve_right hne⟩
    exact ⟨ha, hd, hq, .inr hlen⟩

theorem fillOps_length (q : List RingOp) (ops : List RingOp) (h : q.length ≤ 16) :
    (fillOps q ops).1.length ≤ 16 ∧ ((fillOps q ops).2 = [] ∨ (fillOps q ops).1.length = 16) := by
  induction ops generalizing q with
  | nil => exact ⟨h, .inl rfl⟩
  | cons op ops ih =>
    unfold fillOps
    split
    · exact ih _ (by simp only [List.length_append, List.length_cons, List.length_nil]; omega)
    · rename_i hfull
      exact ⟨h, .inr (Nat.le_antisymm h (Nat.not_lt.1 hfull))⟩

/-- A queue with places filled from the requests that wait. -/
theorem Ring.refill_ok {r : Ring} (ha : r.attn = r.anyFull)
    (hd : r.state = .detached → r.attn = false ∧ ∀ i, r.mirror.get i = .empty) (hq : r.queue.length ≤ 16) : r.refill.ok :=
  ⟨ha, hd, fillOps_length _ _ hq⟩

/-! ## The ownership mirror (R186, R187) -/

theorem Ring.setMirror_ok {r : Ring} (i : Nat) (m : Mirror) (h : r.ok) (hst : r.state ≠ .detached) : (r.setMirror i m).ok := by
  obtain ⟨ha, hd, hq⟩ := h
  by_cases hi : i < 256
  · simp only [Ring.setMirror, hi, dif_pos]
    exact ⟨rfl, fun hs => absurd hs hst, hq⟩
  · simpa only [Ring.setMirror, hi, dif_neg, not_false_eq_true] using ⟨ha, hd, hq⟩

theorem Ring.not_writing_of_detached {r : Ring} (h : r.ok) (hst : r.state = .detached) (i : Nat) : r.mirrorAt i ≠ .writing := by
  unfold Ring.mirrorAt
  split
  · rw [(h.2.1 hst).2]; simp
  · simp

theorem anyFull_replicate : ((Vector.replicate 256 Mirror.empty).toList.any fun v => v == .full) = false := by
  rw [Vector.toList_replicate, List.any_replicate]; rfl

theorem Ring.endDraining_ok {r : Ring} (h : r.ok) : r.endDraining.ok :=
  ⟨anyFull_replicate.symm, fun _ => ⟨rfl, fun i => by simp [Ring.endDraining, Vector.get_eq_getElem]⟩, h.2.2⟩

theorem Ring.responseDone_ok {r : Ring} (i : Nat) (last : Bool) (h : r.ok) : (r.responseDone i last).ok := by
  have hset : (if r.mirrorAt i = .writing then r.setMirror i .full else r).ok := by
    split
    · rename_i hw
      exact Ring.setMirror_ok i _ h fun hst => Ring.not_writing_of_detached h hst i hw
    · exact h
  unfold Ring.responseDone
  dsimp only
  generalize (if r.mirrorAt i = .writing then r.setMirror i .full else r) = r1 at hset ⊢
  split
  · exact Ring.endDraining_ok hset
  · exact hset

theorem Ring.ended_ok {r : Ring} (ref : RingRef) (h : r.ok) : (r.ended ref).ok := by
  cases ref with
  | response i last => exact Ring.responseDone_ok i last h
  | fetch _ => exact h
  | taken => exact h
  | status _ => exact h
  | attachResult => exact h

theorem Ring.handBack_ok {r : Ring} (w : ControlReq) (h : r.ok) : (r.handBack w).ok := by
  by_cases hst : r.state = .detached
  · rwa [Ring.handBack, if_pos hst]
  · rw [Ring.handBack_eq r w hst]
    generalize List.range (min r.respSize 256) = l
    have hkeep := foldl_handBackOne_eq w l r
    refine ⟨foldl_handBackOne_attn w l r h.1, fun hd => ?_, ?_⟩
    · rw [hkeep] at hd
      exact absurd hd hst
    · rw [hkeep]; exact h.2.2

theorem Ring.attach_ok {r : Ring} (a : AttachRecord) (h : r.ok) : (r.attach a).ok := by
  refine Ring.enqueue_ok _ (sameOk.ok (r := { r.enqueue (.attachResult .ok 0) with
    mirror := Vector.replicate 256 .empty, attn := false, state := .attached }) ?_ ⟨?_, fun hs => (by cases hs), ?_⟩)
  · simp [sameOk]
  · exact anyFull_replicate.symm
  · exact (Ring.enqueue_ok _ h).2.2

/-! ## The Ring Interface's steps -/

theorem Ring.responseWrite_ok {r : Ring} (h : r.ok) : r.responseWrite.ok := by
  unfold Ring.responseWrite
  split
  · exact h
  split
  · rename_i hw
    refine sameOk.ok (r := (r.enqueue (.response r.producer _)).setMirror r.producer .writing) ⟨rfl, rfl, rfl, rfl, rfl⟩ ?_
    refine Ring.setMirror_ok _ _ (Ring.enqueue_ok _ h) ?_
    have hplace := hw.1
    simp only [Ring.placeForWrites, Bool.and_eq_true, decide_eq_true_eq] at hplace
    rw [Ring.enqueue_state]
    exact hplace.1.1
  · exact h

theorem Ring.statusWrite_ok {r : Ring} (h : r.ok) : r.statusWrite.ok := by
  unfold Ring.statusWrite
  split
  · exact h
  split
  · exact sameOk.ok (r := r.enqueue _) ⟨rfl, rfl, rfl, rfl, rfl⟩ (Ring.enqueue_ok _ h)
  · exact h

theorem State.takeHeld_ringOk {s : State} (h : s.ringOk) : s.takeHeld.ringOk := by
  unfold State.takeHeld
  split
  · exact h
  split
  · rename_i q _ _
    have htake : ({ s with ring := s.ring.take q } : State).ringOk :=
      ⟨sameOk.ok (r := (s.ring.enqueue _).enqueue _) ⟨rfl, rfl, rfl, rfl, rfl⟩
        (Ring.enqueue_ok _ (Ring.enqueue_ok _ h.1)), h.2⟩
    unfold State.judge
    split
    · exact State.finish_ringOk _ htake
    split
    · exact State.finish_ringOk _ htake
    · exact htake
  · exact h

/-! ## Completions and the attach (R82, R83, R182) -/

theorem firstTrue_eq_none {ds : List (Nat × Bool)} (h : firstTrue ds = none) : ∀ d ∈ ds, d.2 = false := by
  induction ds with
  | nil => simp
  | cons d ds ih =>
    obtain ⟨k, b⟩ := d
    cases b with
    | true => simp [firstTrue] at h
    | false =>
      simp only [firstTrue, Bool.false_eq_true, if_false] at h
      simpa using fun a b hab => ih h (a, b) hab

/-- A record that passes the checks names at most 2,048 extents (R181, field 7). -/
theorem AttachRecord.extentCount_le {r : AttachRecord} {page : Nat} (h : r.failing page = none) : r.extentCount ≤ 2048 := by
  rw [AttachRecord.failing_eq] at h
  have htest := firstTrue_eq_none h (7, decide (r.extentCount = 0) || decide (r.extentCount > 2048)) (by simp [AttachRecord.tests])
  simp only [Bool.or_eq_false_iff, decide_eq_false_iff_not] at htest
  omega

theorem State.attach_ringOk {s : State} {a : AttachRecord} (hcount : a.extentCount ≤ 2048) (h : s.ringOk) :
    (s.attach a).ringOk := by
  refine State.scrubTake_ringOk ⟨Ring.attach_ok a h.1, hcount, fun x hx => ?_, fun x hx => (by cases hx)⟩
  simp only [attachExtents] at hx
  split at hx
  · exact (List.mem_range.1 hx).trans_le hcount
  · cases hx

theorem State.fetched_ringOk {s : State} (f : FetchTarget) (data : List Beat) (h : s.ringOk) : (s.fetched f data).ringOk := by
  cases f with
  | ringEntry idx =>
    refine ⟨sameOk.ok ?_ h.1, h.2⟩
    simp only [State.fetched, Ring.fetched]
    split <;> exact ⟨rfl, rfl, rfl, rfl, rfl⟩
  | attachRecord =>
    unfold State.fetched State.attachFetched
    dsimp only
    split
    · exact h
    split
    · exact ⟨Ring.enqueue_ok _ h.1, h.2⟩
    · rename_i hpass
      split
      · exact ⟨Ring.enqueue_ok _ h.1, h.2⟩
      · exact State.attach_ringOk (AttachRecord.extentCount_le hpass) h

theorem State.freeEntry_ringOk {s : State} (k : MemTag) (h : s.ringOk) : (s.freeEntry k).ringOk := (s.freeEntry_works k).ringOk h

theorem State.completeRing_ringOk {s : State} (k : MemTag) (e : Entry) (ok : Bool) (data : List Beat) (h : s.ringOk) :
    (s.completeRing k e ok data).ringOk := by
  have hfail : (if ok = false ∧ e.kind = .write then (s.freeEntry k).ringWriteError e .issued else s.freeEntry k).ringOk :=
    (ite_works _ ((s.freeEntry_works k).trans (.post _ _)) (s.freeEntry_works k)).ringOk h
  unfold State.completeRing
  dsimp only
  split
  · split
    · exact State.fetched_ringOk _ _ hfail
    · exact hfail
  · exact ⟨Ring.ended_ok _ hfail.1, hfail.2⟩
  all_goals exact hfail

theorem State.completeIssued_ringOk {s : State} (k : MemTag) (e : Entry) (ok : Bool) (data : List Beat) (h : s.ringOk) :
    (s.completeIssued k e ok data).ringOk := by
  have hfree := State.freeEntry_ringOk k h
  unfold State.completeIssued
  split
  · split
    case h_1 => exact (s.completeRead_works k _ e _ ok data).ringOk h
    case h_7 => exact (ite_works _ (s.freeEntry_works k) ((s.freeEntry_works k).trans (State.slotWriteError_works _ _ _ _))).ringOk h
    all_goals exact hfree
  · unfold State.completeControl
    dsimp only
    split
    · exact hfree
    · split
      · exact State.fetched_ringOk _ _ hfree
      · exact hfree
    all_goals exact hfree
  · exact State.completeRing_ringOk k e ok data h
  · exact ⟨hfree.1, hfree.2.1, hfree.2.2.1, hfree.2.2.2⟩

theorem State.complete_ringOk {s : State} (k : MemTag) (ok : Bool) (data : List Beat) (h : s.ringOk) :
    (s.complete k ok data).ringOk := by
  have hlink : ({ s with trk := { s.trk with link := eraseRequest k s.trk.link } } : State).ringOk := h
  unfold State.complete
  dsimp only
  split
  · exact State.completeIssued_ringOk _ _ _ _ hlink
  · exact (State.completeLate_works _ _ _ _).ringOk hlink
  · exact (State.completeOrphan_works _ _ _ _).ringOk hlink
  all_goals exact hlink

theorem State.deadlinePassed_ringOk {s : State} (k : MemTag) (e : Entry) (h : s.ringOk) : (s.deadlinePassed k e).ringOk := by
  have hlate : (s.setEntry k { e with state := .late }).ringOk := h
  unfold State.deadlinePassed
  dsimp only
  split
  · exact (s.slotTimeout_works k _ e).ringOk h
  · split
    all_goals exact hlate
  · split
    · exact ⟨Ring.ended_ok _ hlate.1, hlate.2⟩
    all_goals exact hlate
  · exact hlate

theorem State.completionTimeout_ringOk {s : State} (k : MemTag) (h : s.ringOk) : (s.completionTimeout k).ringOk := by
  unfold State.completionTimeout
  split
  · exact State.deadlinePassed_ringOk _ _ ((s.reach_works _).ringOk h)
  · exact h

/-! ## Grants -/

theorem State.grantSlot_works (s : State) (k : MemTag) (n : SlotId) : works s (s.grantSlot k n) := by
  unfold State.grantSlot
  dsimp only
  split
  · exact .refl s
  · rename_i q rest _
    have hmod := works.slot s n fun sl => Slot.regrant { sl with ingress := rest }
    split
    all_goals exact hmod.trans (.rest ⟨rfl, rfl, rfl, rfl, rfl, rfl, rfl⟩)

theorem State.grantControl_ringOk {s : State} (k : MemTag) (h : s.ringOk) : (s.grantControl k).ringOk := by
  unfold State.grantControl
  split
  · exact h
  · unfold State.grantTrailing
    dsimp only
    split <;> exact h
  · split
    · unfold State.answerFilled
      dsimp only
      split
      · exact ⟨sameOk.ok (sameOk_stale (Ring.markStale_eq _ _)) h.1, h.2⟩
      · exact h
    · exact ⟨Ring.handBack_ok _ h.1, h.2⟩

theorem State.grantRing_ringOk {s : State} (k : MemTag) (h : s.ringOk) : (s.grantRing k).ringOk := by
  unfold State.grantRing
  split
  · exact h
  · rename_i op rest hq
    obtain ⟨⟨ha, hd, hlen, -⟩, hext⟩ := h
    refine ⟨Ring.refill_ok ha hd ?_, hext⟩
    rw [hq, List.length_cons] at hlen
    exact Nat.le_of_succ_le hlen

theorem State.grantScrub_ringOk {s : State} (k : MemTag) (h : s.ringOk) : (s.grantScrub k).ringOk := by
  unfold State.grantScrub
  split
  · exact h
  · exact ⟨h.1, h.2.1, h.2.2.1, h.2.2.2⟩

theorem State.grant_ringOk {s : State} (elapsed : Nat) (h : s.ringOk) : (s.grant elapsed).ringOk := by
  have hpass := (s.elapse_works elapsed).ringOk h
  unfold State.grant State.decideGrant
  split
  · rename_i k p _ _
    cases p with
    | slot n => exact (State.grantSlot_works _ k n).ringOk hpass
    | control => exact State.grantControl_ringOk k hpass
    | ring => exact State.grantRing_ringOk k hpass
    | scrub => exact State.grantScrub_ringOk k hpass
  all_goals exact hpass

/-! ## SIDEBAND, DETACH and RESET -/

theorem State.sidebandSlot_ringOk {s : State} (r : Request) (n : SlotId) (h : s.ringOk) : (s.sidebandSlot r n).ringOk := by
  unfold State.sidebandSlot
  split
  · exact State.finish_ringOk _ h
  split
  · exact State.finish_ringOk _ h
  split
  · exact State.finish_ringOk _ h
  · refine ⟨sameOk.ok ?_ h.1, extentsOk_of_eq (by simp) (by simp) (by simp) h.2⟩
    rw [State.startJob_ring]
    exact ⟨rfl, rfl, rfl, rfl, rfl⟩

theorem Ring.toDraining_dropFetches_ok {r : Ring} (h : r.ok) : r.dropFetches.toDraining.ok := by
  have hdrop : r.dropFetches.attn = r.dropFetches.anyFull := h.1
  refine ⟨hdrop, fun hst => (by cases hst), fillOps_length _ _ ?_⟩
  exact (List.length_filter_le _ _).trans h.2.2.1

theorem foldl_responseDone_ok (l : List Nat) {r : Ring} (h : r.ok) :
    (l.foldl (fun r i => r.responseDone i false) r).ok := by
  induction l generalizing r with
  | nil => exact h
  | cons i l ih => exact ih (Ring.responseDone_ok i false h)

theorem State.shutDownPart_ringOk {s : State} (h : s.ringOk) : s.shutDownPart.ringOk := by
  refine ⟨Ring.toDraining_dropFetches_ok (foldl_responseDone_ok _ (sameOk.ok ?_ h.1)), Nat.zero_le _,
    fun x hx => (by cases hx), fun x hx => (by cases hx)⟩
  rw [State.foldl_cancelJob_ring]
  exact ⟨rfl, rfl, rfl, rfl, rfl⟩

theorem State.detachPart_ringOk {s : State} (r : Request) (h : s.ringOk) : (s.detachPart r).ringOk := by
  unfold State.detachPart
  split
  · exact State.finish_ringOk _ (State.shutDownPart_ringOk h)
  · exact State.finish_ringOk _ h

theorem Ring.reset_ok : Ring.reset.ok :=
  ⟨anyFull_replicate.symm, fun _ => ⟨rfl, fun i => by simp [Ring.reset, Vector.get_eq_getElem]⟩,
    Nat.zero_le _, .inl rfl⟩

theorem State.resetPin_ringOk (s : State) : s.resetPin.ringOk :=
  ⟨sameOk.ok ⟨rfl, rfl, rfl, rfl, rfl⟩ Ring.reset_ok, Nat.zero_le _, fun x hx => (by cases hx), fun x hx => (by cases hx)⟩

/-! ## Every command, and every step -/

theorem State.request_ringOk {s : State} {kind : Nat} {f : Request → State} (hs : s.ringOk) (hf : ∀ r, (f r).ringOk) :
    (s.request kind f).ringOk := by
  unfold State.request
  split
  · split
    · exact hf _
    · exact hs
  · exact hs

theorem State.slotRequest_ringOk {s : State} {kind : Nat} {f : Request → SlotId → State} (hs : s.ringOk)
    (hf : ∀ r n, (f r n).ringOk) : (s.slotRequest kind f).ringOk := by
  refine State.request_ringOk hs fun r => ?_
  split
  · exact hf r _
  · exact State.finish_ringOk _ hs

theorem exec_ringOk {s t : State} (c : Instr) (h : exec c s = .next t) (hs : s.ringOk) : t.ringOk := by
  cases c with
  | reset => obtain rfl := Host.Outcome.next.inj h; exact s.resetPin_ringOk
  | grant elapsed => obtain rfl := Host.Outcome.next.inj h; exact State.grant_ringOk elapsed hs
  | memoryCompletion k ok data => obtain rfl := Host.Outcome.next.inj h; exact State.complete_ringOk k ok data hs
  | completionTimeout k => obtain rfl := Host.Outcome.next.inj h; exact State.completionTimeout_ringOk k hs
  | requestTake => obtain rfl := Host.Outcome.next.inj h; exact State.takeHeld_ringOk hs
  | admission => obtain rfl := Host.Outcome.next.inj h; exact State.slotRequest_ringOk hs fun r n => (s.admitSlot_works r n).ringOk hs
  | stage => obtain rfl := Host.Outcome.next.inj h; exact State.slotRequest_ringOk hs fun r n => (s.stageSlot_works r n).ringOk hs
  | commit => obtain rfl := Host.Outcome.next.inj h; exact State.slotRequest_ringOk hs fun r n => (s.commitSlot_works r n).ringOk hs
  | hold => obtain rfl := Host.Outcome.next.inj h; exact State.slotRequest_ringOk hs fun r n => (s.holdSlot_works r n).ringOk hs
  | resume => obtain rfl := Host.Outcome.next.inj h; exact State.slotRequest_ringOk hs fun r n => (s.resumeSlot_works r n).ringOk hs
  | retire => obtain rfl := Host.Outcome.next.inj h; exact State.slotRequest_ringOk hs fun r n => (s.retireRequest_works r n).ringOk hs
  | restart => obtain rfl := Host.Outcome.next.inj h; exact State.slotRequest_ringOk hs fun r n => (s.restartSlot_works r n).ringOk hs
  | publish => obtain rfl := Host.Outcome.next.inj h; exact State.request_ringOk hs fun r => (s.publishExtent_works r).ringOk hs
  | withdraw => obtain rfl := Host.Outcome.next.inj h; exact State.request_ringOk hs fun r => (s.withdrawExtent_works r).ringOk hs
  | sideband => obtain rfl := Host.Outcome.next.inj h; exact State.slotRequest_ringOk hs fun r n => State.sidebandSlot_ringOk r n hs
  | query => obtain rfl := Host.Outcome.next.inj h; exact State.slotRequest_ringOk hs fun r n => (s.querySlot_works r n).ringOk hs
  | detach => obtain rfl := Host.Outcome.next.inj h; exact State.request_ringOk hs fun r => State.detachPart_ringOk r hs
  | responseWrite => obtain rfl := Host.Outcome.next.inj h; exact ⟨Ring.responseWrite_ok hs.1, hs.2⟩
  | statusUnitWrite => obtain rfl := Host.Outcome.next.inj h; exact ⟨Ring.statusWrite_ok hs.1, hs.2⟩
  | controlRequest r => obtain rfl := Host.Outcome.next.inj h; exact hs
  | _ => exact (exec_works _ rfl h).ringOk hs

/-- Settles O57: the shared updates leave what the invariant reads, and the Ring Interface's operations keep it. -/
theorem stepKeepsTheRing : Obligations.StepKeepsTheRing := by
  unfold Obligations.StepKeepsTheRing
  intro s t hs h
  unfold step at h
  split at h
  · obtain rfl := Host.Outcome.next.inj h
    exact s.tick_works.ringOk hs
  · exact exec_ringOk _ h hs

/-! ## RESET -/

/-- Settles O60: every block after RESET is as its invariant asks. -/
theorem resetHasTheInvariants : Obligations.ResetHasTheInvariants := by
  unfold Obligations.ResetHasTheInvariants
  have hslot : ∀ n, State.reset.slot n = Slot.reset := fun n => by simp [State.slot, State.reset, Vector.get_eq_getElem]
  have hentry : ∀ k, State.reset.entry k = Entry.free := fun k => by
    simp [State.entry, State.reset, Tracker.reset, Vector.get_eq_getElem]
  have hnone : ∀ n k, (State.reset.entry k).countsFor n = false := fun n k => by rw [hentry k]; rfl
  refine ⟨⟨fun n => ?_, fun k => ?_, fun n => ⟨?_, fun k hk => ?_, fun _ k hk => ?_⟩⟩, ⟨Ring.reset_ok, ?_⟩, ?_, ?_⟩
  · rw [hslot n]
    exact ⟨Slot.reset_ok _ _ _, fun _ => rfl⟩
  · rw [hentry k]; rfl
  · rw [State.inFlight_eq_zero (hnone n)]; exact Nat.zero_le _
  · rw [hnone n k] at hk; cases hk
  · rw [hnone n k] at hk; cases hk
  · simp [State.extentsOk, State.reset, ExtentTable.reset, ScrubEngine.reset]
  · simp [State.placesReserved, State.reset, Ring.reset, Sideband.reset, Sideband.owed]
  · simp [State.queuesOk, State.reset, Sideband.ok, Sideband.reset, ControlPort.reset]

end Sys2Proof.Machine
end

section
/-! Every reserved place has its owner, and the queues keep their bounds (R28, R30 to R33, R178, R184, R185). -/

namespace Sys2Proof.Machine

/-! ## The Sideband Engine between jobs (R28, R30 to R33) -/

/-- `Sideband.ok` is soundness with no place and no head left to take. -/
theorem Sideband.ok_iff (sb : Sideband) : sb.ok ↔ sb.sound ∧ (sb.waiting = [] ∨ sb.queue.length = 16) ∧
    (sb.running = none → sb.queue = [] ∧ sb.waiting = []) := by
  simp only [Sideband.ok, Sideband.sound]
  tauto

theorem Sideband.filled_sound {sb : Sideband} (h : sb.sound) : sb.filled.sound := by
  obtain ⟨hq, hw, hidle, hfail⟩ := h
  refine ⟨?_, hw.sublist (List.drop_sublist _ _), hidle, hfail⟩
  simp only [Sideband.filled, List.length_append, List.length_map, List.length_take]
  omega

theorem State.takesHead_sound (s : State) {sb : Sideband} (h : sb.sound) : (s.takesHead sb).sound := by
  unfold State.takesHead
  split
  · rename_i j rest hrun hqueue
    have hrest : ({ sb with queue := rest } : Sideband).sound := by
      refine ⟨?_, h.2.1, h.2.2.1, h.2.2.2⟩
      have hlen := h.1
      rw [hqueue, List.length_cons] at hlen
      exact Nat.le_of_succ_le hlen
    obtain ⟨hq, hw, -, -⟩ := Sideband.filled_sound hrest
    refine ⟨hq, hw, ?_, fun hf => (by cases hf)⟩
    split <;> simp
  all_goals exact h

theorem State.goesOn_ok (s : State) {sb : Sideband} (h : sb.sound) : (s.goesOn sb).ok := by
  have hsound := s.takesHead_sound (Sideband.filled_sound h)
  obtain ⟨hplaces, hhead⟩ := s.settled_goesOn sb
  refine (Sideband.ok_iff _).2 ⟨hsound, hplaces.imp_right fun hlen => Nat.le_antisymm hsound.1 hlen, fun hrun => ?_⟩
  have hnil := hhead hrun
  refine ⟨hnil, hplaces.resolve_right ?_⟩
  rw [hnil]
  simp

theorem Sideband.idle_sound {sb : Sideband} (h : sb.sound) : sb.idle.sound :=
  ⟨h.1, h.2.1, by simp [Sideband.idle], fun hf => (by cases hf)⟩

theorem Sideband.without_sound {sb : Sideband} (n : SlotId) (h : sb.sound) : (sb.without n).sound := by
  have hkept : ({ sb with
      queue := sb.queue.filter fun j => decide (j.slot ≠ n)
      waiting := sb.waiting.filter fun m => decide (m ≠ n) } : Sideband).sound :=
    ⟨(List.length_filter_le _ _).trans h.1, h.2.1.sublist List.filter_sublist, h.2.2⟩
  unfold Sideband.without
  dsimp only
  split
  · exact Sideband.idle_sound hkept
  · exact hkept

theorem mem_insertSlot (n m : SlotId) (ws : List SlotId) (h : m ∈ insertSlot n ws) : m = n ∨ m ∈ ws := by
  induction ws with
  | nil => simpa [insertSlot] using h
  | cons w ws ih =>
    unfold insertSlot at h
    split at h
    · exact .inr h
    split at h
    · exact List.mem_cons.1 h
    · rcases List.mem_cons.1 h with h | h
      · exact .inr (h ▸ List.mem_cons_self)
      · exact (ih h).imp_right (List.mem_cons_of_mem _)

theorem insertSlot_pairwise (n : SlotId) (ws : List SlotId) (h : ws.Pairwise (· < ·)) : (insertSlot n ws).Pairwise (· < ·) := by
  induction ws with
  | nil => simp [insertSlot]
  | cons w ws ih =>
    obtain ⟨hw, hws⟩ := List.pairwise_cons.1 h
    unfold insertSlot
    split
    · exact h
    split
    · rename_i hlt
      exact List.pairwise_cons.2 ⟨fun m hm => (List.mem_cons.1 hm).elim (fun e => e ▸ hlt) fun hm => hlt.trans (hw m hm), h⟩
    · rename_i hne hlt
      refine List.pairwise_cons.2 ⟨fun m hm => ?_, ih hws⟩
      rcases mem_insertSlot n m ws hm with rfl | hm
      · exact lt_of_le_of_ne (not_lt.1 hlt) (Ne.symm hne)
      · exact hw m hm

/-- The engine with an identity job handed over, before the head is taken (R33). -/
def Sideband.handed (sb : Sideband) (n : SlotId) : Sideband :=
  if sb.queue.length < 16 then { sb with queue := sb.queue ++ [.identity n []] }
  else { sb with waiting := insertSlot n sb.waiting }

theorem State.handIdentity_eq (s : State) (n : SlotId) : (s.handIdentity n).sb = s.takesHead (s.sb.handed n) := by
  unfold State.handIdentity
  rw [State.startJob_sb]
  exact State.takesHead_congr (fun _ => rfl) rfl _

theorem Sideband.handed_sound {sb : Sideband} (n : SlotId) (h : sb.sound) : (sb.handed n).sound := by
  obtain ⟨hq, hw, hrest⟩ := h
  unfold Sideband.handed
  split
  · refine ⟨?_, hw, hrest⟩
    simp only [List.length_append, List.length_cons, List.length_nil]
    omega
  · exact ⟨hq, insertSlot_pairwise n _ hw, hrest⟩

/-- A job that joins an engine that keeps its invariants is taken at once, or waits behind the running one. -/
theorem State.takesHead_ok (s : State) {sb sb' : Sideband} (h : sb.ok) (hsound : sb'.sound) (hrun : sb'.running = sb.running)
    (hplaces : sb'.waiting = [] ∨ sb'.queue.length = 16) (hone : sb.queue = [] → sb'.waiting = [] ∧ sb'.queue.length = 1) :
    (s.takesHead sb').ok := by
  have hs := s.takesHead_sound hsound
  refine (Sideband.ok_iff _).2 ⟨hs, ?_⟩
  cases hr : sb.running with
  | some j =>
    have heq : s.takesHead sb' = sb' := s.takesHead_self fun hn => by rw [hrun, hr] at hn; cases hn
    rw [heq]
    exact ⟨hplaces, fun hn => by rw [hrun, hr] at hn; cases hn⟩
  | none =>
    obtain ⟨hwait, hlen⟩ := hone ((((Sideband.ok_iff _).1 h).2.2 hr).1)
    obtain ⟨j, hj⟩ := List.length_eq_one_iff.1 hlen
    have hr' : sb'.running = none := hrun.trans hr
    simp [State.takesHead, hr', hj, Sideband.filled, hwait]

theorem State.handIdentity_ok {s : State} (n : SlotId) (h : s.sb.ok) : (s.handIdentity n).sb.ok := by
  obtain ⟨hsound, hplaces, hhead⟩ := (Sideband.ok_iff _).1 h
  rw [State.handIdentity_eq]
  refine s.takesHead_ok h (Sideband.handed_sound n hsound) ?_ ?_ fun hnil => ?_
  · unfold Sideband.handed; split <;> rfl
  · unfold Sideband.handed
    split
    · rename_i hlt
      exact .inl (hplaces.resolve_right (Nat.ne_of_lt hlt))
    · rename_i hlt
      exact .inr (Nat.le_antisymm hsound.1 (Nat.not_lt.1 hlt))
  · rw [hnil] at hplaces
    simp [Sideband.handed, hnil, hplaces.resolve_right (by simp)]

/-! ## How many answers the engine owes (R36, R38) -/

/-- The request jobs of the engine. -/
theorem Sideband.owed_eq (sb : Sideband) :
    sb.owed = sb.running.toList.countP Job.isRequest + sb.queue.countP Job.isRequest := List.countP_append ..

theorem countP_identities (ws : List SlotId) : (ws.map fun m => Job.identity m []).countP Job.isRequest = 0 := by
  simp [Job.isRequest]

theorem Sideband.filled_owed (sb : Sideband) : sb.filled.owed = sb.owed := by
  rw [Sideband.owed_eq, Sideband.owed_eq]
  simp only [Sideband.filled, List.countP_append, countP_identities, Nat.add_zero]

theorem State.takesHead_owed (s : State) (sb : Sideband) : (s.takesHead sb).owed = sb.owed := by
  unfold State.takesHead
  split
  · rename_i j rest hrun hqueue
    have hfill := Sideband.filled_owed { sb with queue := rest }
    rw [Sideband.owed_eq, Sideband.owed_eq] at hfill
    rw [Sideband.owed_eq, Sideband.owed_eq, hrun, hqueue, List.countP_cons]
    simp only [Sideband.filled, hrun, Option.toList, List.countP_nil, Nat.zero_add] at hfill ⊢
    rw [hfill, List.countP_cons, List.countP_nil]
    omega
  all_goals rfl

theorem State.goesOn_owed (s : State) (sb : Sideband) : (s.goesOn sb).owed = sb.owed :=
  (s.takesHead_owed _).trans (Sideband.filled_owed sb)

theorem noBladeAnswers_length (js : List Job) : (noBladeAnswers js).length = js.countP Job.isRequest := by
  induction js with
  | nil => rfl
  | cons j js ih =>
    rw [List.countP_cons, ← ih]
    cases j <;> rfl

theorem Sideband.without_owed (s : State) (n : SlotId) :
    (s.sb.without n).owed + (noBladeAnswers (s.jobsOf n)).length = s.sb.owed := by
  have hsplit : ∀ l : List Job, (l.filter fun j => decide (j.slot ≠ n)).countP Job.isRequest +
      (l.filter fun j => j.slot == n).countP Job.isRequest = l.countP Job.isRequest := fun l => by
    rw [List.countP_filter, List.countP_filter]
    induction l with
    | nil => rfl
    | cons j l ih =>
      simp only [List.countP_cons] at ih ⊢
      by_cases hj : j.slot = n <;> cases hk : j.isRequest <;> simp [hj] at ih ⊢ <;> omega
  have hrun : ((s.sb.without n).running.toList ++ (s.sb.without n).queue) =
      (s.sb.running.toList ++ s.sb.queue).filter fun j => decide (j.slot ≠ n) := by
    rw [List.filter_append]
    unfold Sideband.without
    dsimp only
    cases hr : s.sb.running with
    | none => simp
    | some j =>
      by_cases hj : j.slot = n
      · simp [hj, Sideband.jobEnded]
      · simp [hj]
  rw [noBladeAnswers_length, Sideband.owed, hrun, State.jobsOf, hsplit, Sideband.owed]

/-! ## Reserved places (R184, R185) -/

/-- Soundness of the engine, with the places reserved for its answers. -/
def State.jobsSound (s : State) : Prop := s.sb.sound ∧ s.placesReserved

/-- What keeps the places: the sum of entries and places, and every place its owner. -/
theorem placesReserved_of {s t : State} (h : s.placesReserved)
    (hpend : t.ring.pend.length + t.ring.reserved ≤ max 32 (s.ring.pend.length + s.ring.reserved))
    (hres : s.ring.reserved = s.ring.exec.toList.length + s.sb.owed → t.ring.reserved = t.ring.exec.toList.length + t.sb.owed) :
    t.placesReserved := by
  obtain ⟨hr, hle⟩ := h
  exact ⟨hres hr, hpend.trans (by omega)⟩

theorem placesReserved_of_eq {s t : State} (h : s.placesReserved) (hpend : t.ring.pend = s.ring.pend)
    (hres : t.ring.reserved = s.ring.reserved) (hexec : t.ring.exec = s.ring.exec) (howed : t.sb.owed = s.sb.owed) :
    t.placesReserved :=
  placesReserved_of h (by rw [hpend, hres]; exact le_max_right _ _) fun hr => by rw [hres, hexec, howed, hr]

theorem Ring.postEvent_places (r : Ring) (e : Event) :
    (r.postEvent e).pend.length + r.reserved ≤ max 32 (r.pend.length + r.reserved) := by
  unfold Ring.postEvent
  split
  · split
    · rename_i hroom
      simp only [List.length_append, List.length_cons, List.length_nil]
      omega
    · rw [Ring.markStale_pend]
      exact le_max_right _ _
  · exact le_max_right _ _

theorem State.postEvent_placesReserved {s : State} (e : Event) (h : s.placesReserved) : (s.postEvent e).placesReserved :=
  placesReserved_of h (by simpa [State.postEvent] using s.ring.postEvent_places e) fun hr => by simpa [State.postEvent] using hr

theorem State.cancelJobs_jobsSound {s : State} (n : SlotId) (h : s.jobsSound) : (s.cancelJobs n).jobsSound := by
  obtain ⟨hsound, hres, hle⟩ := h
  have howed := Sideband.without_owed s n
  refine ⟨?_, ?_, ?_⟩
  · rw [State.cancelJobs_sb]
    exact s.takesHead_sound (Sideband.filled_sound (Sideband.without_sound n hsound))
  · rw [State.cancelJobs_sb, State.jobsCancelled, State.goesOn_owed, State.cancelJobs_answers]
    dsimp only
    omega
  · rw [State.cancelJobs_answers]
    simp only [List.length_append]
    omega

theorem State.handIdentity_owed_eq (s : State) (n : SlotId) : (s.handIdentity n).sb.owed = s.sb.owed := by
  rw [State.handIdentity_eq, State.takesHead_owed]
  unfold Sideband.handed
  split
  · rw [Sideband.owed_eq, Sideband.owed_eq, List.countP_append]
    rfl
  · rfl

/-- The engine's jobs but for the running one. -/
theorem Sideband.idle_owed {sb : Sideband} {b : Bool} (h : sb.running.map Job.isRequest = some b) :
    sb.owed = sb.idle.owed + b.toNat := by
  obtain ⟨j, hj, hb⟩ := Option.map_eq_some_iff.1 h
  rw [Sideband.owed_eq, Sideband.owed_eq, hj]
  cases b <;> simp [Sideband.idle, hb, Nat.add_comm]

theorem Sideband.goesOnAs.owed {sb sb' : Sideband} (h : sb.goesOnAs sb') : sb'.owed = sb.owed := by
  obtain ⟨hq, -, hrun, -⟩ := h
  rw [Sideband.owed_eq, Sideband.owed_eq, hq]
  cases hr : sb.running <;> cases hr' : sb'.running <;> simp_all [List.countP_cons]

theorem Sideband.goesOnAs.ok {sb sb' : Sideband} (h : sb.goesOnAs sb') (hok : sb.ok) : sb'.ok := by
  obtain ⟨hq, hw, hrun, hsound⟩ := h
  obtain ⟨hs, hplaces, hhead⟩ := (Sideband.ok_iff _).1 hok
  refine (Sideband.ok_iff _).2 ⟨hsound hs, by rw [hq, hw]; exact hplaces, fun hn => ?_⟩
  rw [hq, hw]
  refine hhead ?_
  cases hr : sb.running with
  | none => rfl
  | some j => rw [hn, hr] at hrun; cases hrun

/-! ## The updates -/

/-- What the updates leave of the request in execution and of the control link. -/
theorem works.requestStands {s t : State} (h : works s t) :
    t.ring.exec = s.ring.exec ∧ t.ctl.queue = s.ctl.queue ∧ t.ctl.heldBack = s.ctl.heldBack := by
  induction h with
  | refl s => exact ⟨rfl, rfl, rfl⟩
  | trans _ _ ih1 ih2 => exact ⟨ih2.1.trans ih1.1, ih2.2.1.trans ih1.2.1, ih2.2.2.trans ih1.2.2⟩
  | slot s n f => simp
  | post s e => simp [State.postEvent]
  | rest h =>
    obtain ⟨-, hr, -, -, hq, hb, -⟩ := h
    exact ⟨by rw [hr], hq, hb⟩
  | extent s x e => rw [State.setExtent_ring]; simp
  | dirty s hx => rw [State.makeDirty_ring]; simp
  | cancel s n => rw [State.cancelJobs_ring]; simp
  | identity s n => simp
  | engine s h => exact ⟨rfl, rfl, rfl⟩
  | jobEnd _ _ ih => simpa using ih
  | answered s a _ => simp [State.respond]
  | record s q => exact ⟨rfl, rfl, rfl⟩
  | scrub s =>
    unfold State.scrubTake
    split
    · exact ⟨rfl, rfl, rfl⟩
    split
    · exact ⟨rfl, rfl, rfl⟩
    split
    · exact ⟨rfl, rfl, rfl⟩
    · simp only [Ring.markStale_exec]
      rw [State.setExtent_ring]
      simp
  | passed s h => exact ⟨rfl, rfl, rfl⟩

/-- The end of a job, its answer given (R32, R37). -/
theorem State.answered_jobsSound {s : State} (a : Response) (hrun : s.sb.running.map Job.isRequest = some true)
    (h : s.jobsSound) : (({ s with sb := s.sb.idle } : State).respond a).nextJob.jobsSound := by
  obtain ⟨hsound, hres, hle⟩ := h
  have howed := Sideband.idle_owed hrun
  rw [State.nextJob_eq]
  refine ⟨State.takesHead_sound _ (Sideband.filled_sound (Sideband.idle_sound hsound)), ?_, ?_⟩
  · simp only [State.respond_sb, State.goesOn_owed]
    simp only [State.respond, Ring.respond]
    simp at howed
    omega
  · simp only [State.respond, Ring.respond, List.length_append, List.length_cons, List.length_nil]
    simp at howed
    omega

theorem State.scrubTake_jobs (s : State) : s.scrubTake.sb = s.sb ∧ s.scrubTake.ring.pend = s.ring.pend ∧
    s.scrubTake.ring.reserved = s.ring.reserved := by
  unfold State.scrubTake
  split
  · exact ⟨rfl, rfl, rfl⟩
  split
  · exact ⟨rfl, rfl, rfl⟩
  split
  · exact ⟨rfl, rfl, rfl⟩
  · simp only [Ring.markStale_pend, Ring.markStale_reserved]
    rw [State.setExtent_ring]
    simp

theorem works.jobs {s t : State} (h : works s t) (hs : s.jobsSound) : t.jobsSound ∧ (s.sb.ok → t.sb.ok) := by
  induction h with
  | refl s => exact ⟨hs, id⟩
  | trans _ _ ih1 ih2 =>
    have h1 := ih1 hs
    have h2 := ih2 h1.1
    exact ⟨h2.1, fun h => h2.2 (h1.2 h)⟩
  | slot s n f => exact ⟨⟨hs.1, placesReserved_of_eq hs.2 (by simp) (by simp) (by simp) rfl⟩, id⟩
  | post s e => exact ⟨⟨hs.1, State.postEvent_placesReserved e hs.2⟩, id⟩
  | rest h =>
    obtain ⟨-, hr, hsb, -⟩ := h
    exact ⟨⟨by rw [hsb]; exact hs.1, placesReserved_of_eq hs.2 (by rw [hr]) (by rw [hr]) (by rw [hr]) (by rw [hsb])⟩,
      by rw [hsb]; exact id⟩
  | extent s x e =>
    have hr := s.setExtent_ring x e
    exact ⟨⟨by simpa using hs.1, placesReserved_of_eq hs.2 (by rw [hr]) (by rw [hr]) (by rw [hr]) (by simp)⟩, by simp⟩
  | @dirty s x hx =>
    have hr := s.makeDirty_ring x
    exact ⟨⟨by simpa using hs.1, placesReserved_of_eq hs.2 (by rw [hr]) (by rw [hr]) (by rw [hr]) (by simp)⟩, by simp⟩
  | cancel s n =>
    refine ⟨State.cancelJobs_jobsSound n hs, fun _ => ?_⟩
    rw [State.cancelJobs_sb]
    exact s.goesOn_ok (Sideband.without_sound n hs.1)
  | identity s n =>
    refine ⟨⟨?_, placesReserved_of_eq hs.2 (by simp) (by simp) (by simp) (s.handIdentity_owed_eq n)⟩, State.handIdentity_ok n⟩
    rw [State.handIdentity_eq]
    exact s.takesHead_sound (Sideband.handed_sound n hs.1)
  | engine s h => exact ⟨⟨h.2.2.2 hs.1, placesReserved_of_eq hs.2 rfl rfl rfl h.owed⟩, h.ok⟩
  | @jobEnd s u hrun _ ih =>
    have howed := Sideband.idle_owed hrun
    obtain ⟨hsound, hplaces⟩ := (ih ⟨Sideband.idle_sound hs.1, placesReserved_of_eq hs.2 rfl rfl rfl (by simpa using howed.symm)⟩).1
    rw [State.nextJob_eq]
    exact ⟨⟨u.takesHead_sound (Sideband.filled_sound hsound), placesReserved_of_eq hplaces rfl rfl rfl (u.goesOn_owed _)⟩,
      fun _ => u.goesOn_ok hsound⟩
  | answered s a hrun =>
    refine ⟨State.answered_jobsSound a hrun hs, fun _ => ?_⟩
    rw [State.nextJob_eq]
    exact State.goesOn_ok _ (Sideband.idle_sound hs.1)
  | record s q => exact ⟨⟨hs.1, placesReserved_of_eq hs.2 rfl rfl rfl rfl⟩, id⟩
  | scrub s =>
    obtain ⟨hsb, hpend, hres⟩ := s.scrubTake_jobs
    exact ⟨⟨by rw [hsb]; exact hs.1, placesReserved_of_eq hs.2 hpend hres (works.scrub s).requestStands.1 (by rw [hsb])⟩,
      by rw [hsb]; exact id⟩
  | passed s h => exact ⟨⟨hs.1, placesReserved_of_eq hs.2 rfl rfl rfl rfl⟩, id⟩

/-! ## Both invariants -/

/-- The reserved places and the queues. -/
def State.heldOk (s : State) : Prop := s.placesReserved ∧ s.queuesOk

theorem State.heldOk.jobsSound {s : State} (h : s.heldOk) : s.jobsSound := ⟨((Sideband.ok_iff _).1 h.2.1).1, h.1⟩

theorem works.heldOk {s t : State} (h : works s t) (hs : s.heldOk) : t.heldOk := by
  obtain ⟨⟨-, hplaces⟩, hok⟩ := h.jobs hs.jobsSound
  obtain ⟨-, hq, hb⟩ := h.requestStands
  exact ⟨hplaces, hok hs.2.1, by rw [hq]; exact hs.2.2.1, by rw [hq, hb]; exact hs.2.2.2⟩

/-- A step that leaves what the two invariants read. -/
theorem heldOk_of_eq {s t : State} (hs : s.heldOk) (hpend : t.ring.pend = s.ring.pend)
    (hres : t.ring.reserved = s.ring.reserved) (hexec : t.ring.exec = s.ring.exec) (hsb : t.sb = s.sb) (hctl : t.ctl = s.ctl) :
    t.heldOk :=
  ⟨placesReserved_of_eq hs.1 hpend hres hexec (by rw [hsb]), by rw [State.queuesOk, hsb, hctl]; exact hs.2⟩

/-- The answer to the request in execution takes its place (R184, R185). -/
theorem State.finish_heldOk {s : State} (a : Response) (hexec : s.ring.exec ≠ none) (h : s.heldOk) : (s.finish a).heldOk := by
  obtain ⟨⟨hres, hle⟩, hq⟩ := h
  obtain ⟨r, hr⟩ := Option.ne_none_iff_exists'.1 hexec
  rw [hr] at hres
  simp only [Option.toList, List.length_cons, List.length_nil] at hres
  refine ⟨⟨?_, ?_⟩, hq⟩
  · simp only [State.finish, Ring.respond, Option.toList, List.length_nil]
    omega
  · simp only [State.finish, Ring.respond, List.length_append, List.length_cons, List.length_nil]
    omega

theorem worksAnswering.heldOk {s t : State} (h : worksAnswering s t) (hexec : s.ring.exec ≠ none) (hs : s.heldOk) :
    t.heldOk := by
  obtain ⟨u, a, hu, ht⟩ := h
  refine ht.heldOk (State.finish_heldOk a ?_ (hu.heldOk hs))
  rw [hu.requestStands.1]
  exact hexec

/-! ## The control link (R178) -/

theorem pullControl_length (q : List ControlItem) (ans : List ControlAnswer) (rs : List ControlReq) (h : q.length ≤ 16) :
    (pullControl q ans rs).1.length ≤ 16 ∧ ((pullControl q ans rs).2.2 = [] ∨ (pullControl q ans rs).1.length = 16) := by
  induction rs generalizing q ans with
  | nil => exact ⟨h, .inl rfl⟩
  | cons r rs ih =>
    unfold pullControl
    split
    · rename_i hfull
      exact ⟨h, .inr (Nat.le_antisymm h hfull)⟩
    split
    · exact ih _ _ (by simp only [List.length_append, List.length_cons, List.length_nil]; omega)
    · exact ih _ _ h

/-- A step that changes the control link alone, its queue pulled full. -/
theorem heldOk_of_pull {s t : State} (hs : s.heldOk) (hpend : t.ring.pend = s.ring.pend)
    (hres : t.ring.reserved = s.ring.reserved) (hexec : t.ring.exec = s.ring.exec) (hsb : t.sb = s.sb) {c : ControlPort}
    (hctl : t.ctl = c.pull) (hlen : c.queue.length ≤ 16) : t.heldOk := by
  refine ⟨placesReserved_of_eq hs.1 hpend hres hexec (by rw [hsb]), by rw [hsb]; exact hs.2.1, ?_⟩
  rw [hctl]
  exact pullControl_length _ _ _ hlen

/-! ## The Ring Interface's steps -/

/-- What `placesReserved` reads of the Ring Interface. -/
def samePlaces (r r' : Ring) : Prop := r'.pend = r.pend ∧ r'.reserved = r.reserved ∧ r'.exec = r.exec

theorem samePlaces.trans {a b c : Ring} (h : samePlaces a b) (k : samePlaces b c) : samePlaces a c :=
  ⟨k.1.trans h.1, k.2.1.trans h.2.1, k.2.2.trans h.2.2⟩

theorem Ring.enqueue_places (r : Ring) (op : RingOp) : samePlaces r (r.enqueue op) := by
  unfold Ring.enqueue
  split <;> exact ⟨rfl, rfl, rfl⟩

theorem Ring.setMirror_places (r : Ring) (i : Nat) (m : Mirror) : samePlaces r (r.setMirror i m) := by
  rw [Ring.setMirror_eq]
  exact ⟨rfl, rfl, rfl⟩

theorem Ring.responseDone_places (r : Ring) (i : Nat) (last : Bool) : samePlaces r (r.responseDone i last) := by
  have hset : samePlaces r (if r.mirrorAt i = .writing then r.setMirror i .full else r) := by
    split
    · exact r.setMirror_places i _
    · exact ⟨rfl, rfl, rfl⟩
  unfold Ring.responseDone
  dsimp only
  generalize (if r.mirrorAt i = .writing then r.setMirror i .full else r) = r1 at hset ⊢
  split
  · exact hset.trans ⟨rfl, rfl, rfl⟩
  · exact hset

theorem Ring.ended_places (r : Ring) (ref : RingRef) : samePlaces r (r.ended ref) := by
  cases ref with
  | response i last => exact r.responseDone_places i last
  | fetch _ => exact ⟨rfl, rfl, rfl⟩
  | taken => exact ⟨rfl, rfl, rfl⟩
  | status _ => exact ⟨rfl, rfl, rfl⟩
  | attachResult => exact ⟨rfl, rfl, rfl⟩

theorem Ring.handBack_places (r : Ring) (w : ControlReq) : samePlaces r (r.handBack w) := by
  by_cases h : r.state = .detached
  · rw [Ring.handBack, if_pos h]; exact ⟨rfl, rfl, rfl⟩
  · rw [Ring.handBack_eq r w h, foldl_handBackOne_eq]; exact ⟨rfl, rfl, rfl⟩

/-- A step of the Ring Interface alone that leaves the places. -/
theorem heldOk_of_places {s : State} {r : Ring} (hs : s.heldOk) (h : samePlaces s.ring r) :
    ({ s with ring := r } : State).heldOk := heldOk_of_eq hs h.1 h.2.1 h.2.2 rfl rfl

theorem State.responseWrite_heldOk {s : State} (hs : s.heldOk) : ({ s with ring := s.ring.responseWrite } : State).heldOk := by
  unfold Ring.responseWrite
  split
  · exact hs
  rename_i rec rest hpend
  split
  · obtain ⟨-, hres, hexec⟩ := (s.ring.enqueue_places (.response s.ring.producer rec)).trans
      (Ring.setMirror_places _ s.ring.producer .writing)
    refine ⟨placesReserved_of hs.1 ?_ fun hr => ?_, hs.2⟩
    · simp only [Ring.writeResponse, hres, hpend, List.length_cons]
      omega
    · simp only [Ring.writeResponse, hres, hexec]
      exact hr
  · exact hs

theorem State.statusWrite_heldOk {s : State} (hs : s.heldOk) : ({ s with ring := s.ring.statusWrite } : State).heldOk := by
  refine heldOk_of_places hs ?_
  unfold Ring.statusWrite
  split
  · exact ⟨rfl, rfl, rfl⟩
  split
  · exact (s.ring.enqueue_places _).trans ⟨rfl, rfl, rfl⟩
  · exact ⟨rfl, rfl, rfl⟩

/-- A take reserves the place of its answer (R184). -/
theorem State.take_heldOk {s : State} (q : Request) (hdue : s.ring.takeDue = true) (hs : s.heldOk) :
    ({ s with ring := s.ring.take q } : State).heldOk := by
  obtain ⟨⟨hres, hle⟩, hq⟩ := hs
  simp only [Ring.takeDue, decide_eq_true_eq] at hdue
  obtain ⟨-, -, hexec, hroom⟩ := hdue
  obtain ⟨hpend, -, -⟩ := (s.ring.enqueue_places (.taken s.ring.consumer)).trans
    (Ring.enqueue_places _ (.fetch ((s.ring.consumer + 1) % s.ring.reqSize)))
  rw [hexec] at hres
  refine ⟨⟨?_, ?_⟩, hq⟩
  · simp only [Ring.take, Option.toList, List.length_cons, List.length_nil] at hres ⊢
    omega
  · simp only [Ring.take, hpend]
    omega

theorem State.takeHeld_heldOk {s : State} (hs : s.heldOk) : s.takeHeld.heldOk := by
  unfold State.takeHeld
  split
  · exact hs
  split
  · rename_i q _ hdue
    have htake := State.take_heldOk q hdue.1 hs
    unfold State.judge
    split
    · exact State.finish_heldOk _ (by simp [Ring.take]) htake
    split
    · exact State.finish_heldOk _ (by simp [Ring.take]) htake
    · exact htake
  · exact hs

/-! ## Completions, the attach and grants -/

/-- The Ring Interface opened by an attach, before the event and the read-ahead (R182). -/
def Ring.opened (r : Ring) (a : AttachRecord) : Ring :=
  { r.enqueue (.attachResult .ok 0) with
    reqBase := BitVec.ofNat 40 a.reqBase
    reqSize := a.reqSize
    respBase := BitVec.ofNat 40 a.respBase
    respSize := a.respSize
    statusBase := BitVec.ofNat 40 a.statusBase
    consumer := 0
    producer := 0
    mirror := Vector.replicate 256 .empty
    attn := false
    lost := 0
    state := .attached
    stale := allUnits }

theorem Ring.attach_eq_opened (r : Ring) (a : AttachRecord) :
    r.attach a = ((r.opened a).postEvent (.attached a.extentCount a.scrubAtAttach a.autoRetire)).enqueue (.fetch 0) := rfl

theorem Ring.attach_places (r : Ring) (a : AttachRecord) :
    (r.attach a).pend.length + r.reserved ≤ max 32 (r.pend.length + r.reserved) ∧ (r.attach a).reserved = r.reserved ∧
      (r.attach a).exec = r.exec := by
  have hopen : samePlaces r (r.opened a) := r.enqueue_places (.attachResult .ok 0)
  obtain ⟨hp, hr, he⟩ := hopen
  have hpost := (r.opened a).postEvent_places (.attached a.extentCount a.scrubAtAttach a.autoRetire)
  rw [Ring.attach_eq_opened]
  obtain ⟨hp', hr', he'⟩ := Ring.enqueue_places
    ((r.opened a).postEvent (.attached a.extentCount a.scrubAtAttach a.autoRetire)) (.fetch 0)
  rw [hp, hr] at hpost
  rw [hp']
  exact ⟨hpost, hr'.trans (by simpa using hr), he'.trans (by simpa using he)⟩

theorem State.attach_heldOk {s : State} (a : AttachRecord) (hs : s.heldOk) : (s.attach a).heldOk := by
  obtain ⟨hpend, hres, hexec⟩ := s.ring.attach_places a
  refine (works.scrub _).heldOk ⟨placesReserved_of hs.1 ?_ fun hr => ?_, hs.2⟩
  · simp only [hres]; exact hpend
  · simp only [hres, hexec]; exact hr

theorem State.fetched_heldOk {s : State} (f : FetchTarget) (data : List Beat) (hs : s.heldOk) : (s.fetched f data).heldOk := by
  cases f with
  | ringEntry idx =>
    refine heldOk_of_places hs ?_
    unfold Ring.fetched
    split <;> exact ⟨rfl, rfl, rfl⟩
  | attachRecord =>
    unfold State.fetched State.attachFetched
    dsimp only
    split
    · exact hs
    split
    · exact heldOk_of_places hs (Ring.enqueue_places _ _)
    split
    · exact heldOk_of_places hs (Ring.enqueue_places _ _)
    · exact State.attach_heldOk _ hs

theorem State.completeIssued_heldOk {s : State} (k : MemTag) (e : Entry) (ok : Bool) (data : List Beat) (hs : s.heldOk) :
    (s.completeIssued k e ok data).heldOk := by
  have hfree := (s.freeEntry_works k).heldOk hs
  unfold State.completeIssued
  split
  · split
    case h_1 => exact (s.completeRead_works k _ e _ ok data).heldOk hs
    case h_7 => exact (ite_works _ (s.freeEntry_works k) ((s.freeEntry_works k).trans (State.slotWriteError_works _ _ _ _))).heldOk hs
    all_goals exact hfree
  · unfold State.completeControl
    dsimp only
    split
    · exact (s.freeEntry_works k |>.trans (.rest ⟨rfl, rfl, rfl, rfl, rfl, rfl, rfl⟩)).heldOk hs
    · split
      · exact State.fetched_heldOk _ _ hfree
      · exact hfree
    all_goals exact hfree
  · have hfail : (if ok = false ∧ e.kind = .write then (s.freeEntry k).ringWriteError e .issued else s.freeEntry k).heldOk :=
      (ite_works _ ((s.freeEntry_works k).trans (.post _ _)) (s.freeEntry_works k)).heldOk hs
    unfold State.completeRing
    dsimp only
    split
    · split
      · exact State.fetched_heldOk _ _ hfail
      · exact hfail
    · exact heldOk_of_places hfail (Ring.ended_places _ _)
    all_goals exact hfail
  · exact heldOk_of_eq hfree rfl rfl rfl rfl rfl

theorem State.complete_heldOk {s : State} (k : MemTag) (ok : Bool) (data : List Beat) (hs : s.heldOk) :
    (s.complete k ok data).heldOk := by
  have hlink : ({ s with trk := { s.trk with link := eraseRequest k s.trk.link } } : State).heldOk := hs
  unfold State.complete
  dsimp only
  split
  · exact State.completeIssued_heldOk _ _ _ _ hlink
  · exact (State.completeLate_works _ _ _ _).heldOk hlink
  · exact (State.completeOrphan_works _ _ _ _).heldOk hlink
  all_goals exact hlink

theorem State.deadlinePassed_heldOk {s : State} (k : MemTag) (e : Entry) (hs : s.heldOk) : (s.deadlinePassed k e).heldOk := by
  have hlate : (s.setEntry k { e with state := .late }).heldOk := hs
  unfold State.deadlinePassed
  dsimp only
  split
  · exact (s.slotTimeout_works k _ e).heldOk hs
  · split
    · exact (works.rest (s := s.setEntry k { e with state := .late }) ⟨rfl, rfl, rfl, rfl, rfl, rfl, rfl⟩).heldOk hlate
    all_goals exact hlate
  · split
    · exact heldOk_of_places hlate (Ring.ended_places _ _)
    all_goals exact hlate
  · exact hlate

theorem State.grantControl_heldOk {s : State} (k : MemTag) (hs : s.heldOk) : (s.grantControl k).heldOk := by
  have hlen := hs.2.2.1
  unfold State.grantControl
  split
  · exact hs
  · rename_i f rest hq
    rw [hq, List.length_cons] at hlen
    unfold State.grantTrailing
    dsimp only
    split
    all_goals exact heldOk_of_pull hs rfl rfl rfl rfl (c := { s.ctl with queue := rest }) rfl (Nat.le_of_succ_le hlen)
  · rename_i r rest hq
    rw [hq, List.length_cons] at hlen
    split
    · unfold State.answerFilled
      dsimp only
      split
      · exact heldOk_of_pull hs (by simp) (by simp) (by simp) rfl (c := { s.ctl with queue := rest, answers := _ }) rfl
          (Nat.le_of_succ_le hlen)
      · exact heldOk_of_pull hs rfl rfl rfl rfl (c := { s.ctl with queue := rest, answers := _ }) rfl (Nat.le_of_succ_le hlen)
    · obtain ⟨hpend, hres, hexec⟩ := s.ring.handBack_places r
      unfold State.grantRequest
      dsimp only
      split
      · refine ⟨placesReserved_of_eq hs.1 hpend hres hexec rfl, hs.2.1, hlen, ?_⟩
        have hheld := hs.2.2.2
        rw [hq] at hheld
        exact hheld
      · exact heldOk_of_pull hs hpend hres hexec rfl (c := { s.ctl with queue := rest }) rfl (Nat.le_of_succ_le hlen)

theorem State.grant_heldOk {s : State} (elapsed : Nat) (hs : s.heldOk) : (s.grant elapsed).heldOk := by
  have hpass := (s.elapse_works elapsed).heldOk hs
  unfold State.grant State.decideGrant
  split
  · rename_i k p _ _
    cases p with
    | slot n => exact (State.grantSlot_works _ k n).heldOk hpass
    | control => exact State.grantControl_heldOk k hpass
    | ring =>
      unfold State.grantTo State.grantRing
      dsimp only
      split
      · exact hpass
      · exact heldOk_of_eq hpass rfl rfl rfl rfl rfl
    | scrub =>
      unfold State.grantTo State.grantScrub
      dsimp only
      split
      · exact hpass
      · exact heldOk_of_eq hpass rfl rfl rfl rfl rfl
  all_goals exact hpass

/-! ## SIDEBAND, DETACH and RESET -/

/-- An accepted SIDEBAND request keeps its place for the job's answer (R36, R184). -/
theorem State.sidebandSlot_heldOk {s : State} (r : Request) (n : SlotId) (hexec : s.ring.exec ≠ none) (hs : s.heldOk) :
    (s.sidebandSlot r n).heldOk := by
  unfold State.sidebandSlot
  split
  · exact State.finish_heldOk _ hexec hs
  split
  · exact State.finish_heldOk _ hexec hs
  split
  · exact State.finish_heldOk _ hexec hs
  rename_i hroom
  simp only [not_or, Nat.not_le, not_not] at hroom
  obtain ⟨hlt, hwait⟩ := hroom
  obtain ⟨hplaces, hok, hctl⟩ := hs
  obtain ⟨q, hq⟩ := Option.ne_none_iff_exists'.1 hexec
  have hsound : ({ s.sb with queue := s.sb.queue ++ [sidebandJob r n] } : Sideband).sound := by
    obtain ⟨-, hrest⟩ := ((Sideband.ok_iff _).1 hok).1
    refine ⟨?_, hrest⟩
    simp only [List.length_append, List.length_cons, List.length_nil]
    omega
  have howed : ({ s.sb with queue := s.sb.queue ++ [sidebandJob r n] } : Sideband).owed = s.sb.owed + 1 := by
    rw [Sideband.owed_eq, Sideband.owed_eq, List.countP_append]
    rfl
  rw [State.startJob_eq]
  refine ⟨placesReserved_of hplaces (le_max_right _ _) fun hr => ?_, ?_, hctl⟩
  · rw [hq] at hr
    simp only [State.takesHead_owed, howed, Option.toList, List.length_cons, List.length_nil] at hr ⊢
    omega
  · exact State.takesHead_ok _ hok hsound rfl (.inl hwait) fun hnil => ⟨hwait, by simp [hnil]⟩

theorem foldl_responseDone_places (l : List Nat) (r : Ring) :
    samePlaces r (l.foldl (fun r i => r.responseDone i false) r) := by
  induction l generalizing r with
  | nil => exact ⟨rfl, rfl, rfl⟩
  | cons i l ih => exact (r.responseDone_places i false).trans (ih _)

theorem Sideband.reset_ok (timeout : Nat) : ({ Sideband.reset with timeout := timeout } : Sideband).ok := by
  simp [Sideband.ok, Sideband.reset]

/-- Every job cancelled, the place of the DETACH's answer is left (R38, R191). -/
theorem State.shutDownPart_heldOk {s : State} (hs : s.heldOk) : s.shutDownPart.heldOk := by
  obtain ⟨⟨hres, hle⟩, -, hctl⟩ := hs
  have hcancel := State.foldl_cancelJob_answers (s.sb.running.toList ++ s.sb.queue) s
  have hlen := noBladeAnswers_length (s.sb.running.toList ++ s.sb.queue)
  obtain ⟨hp, hr, he⟩ := foldl_responseDone_places (s.trk.entries.toList.filterMap Entry.responseIndex)
    ((s.sb.running.toList ++ s.sb.queue).foldl State.cancelJob s).ring
  rw [hcancel] at hp hr he
  have howed : s.sb.owed = (s.sb.running.toList ++ s.sb.queue).countP Job.isRequest := rfl
  have hring : s.shutDownPart.ring.pend = s.ring.pend ++ noBladeAnswers (s.sb.running.toList ++ s.sb.queue) ∧
      s.shutDownPart.ring.reserved = s.ring.reserved - (noBladeAnswers (s.sb.running.toList ++ s.sb.queue)).length ∧
      s.shutDownPart.ring.exec = s.ring.exec := by
    simp only [State.shutDownPart, Ring.toDraining, Ring.dropFetches, Ring.refill]
    rw [hcancel]
    exact ⟨hp, hr, he⟩
  obtain ⟨hpend, hreserved, hexec⟩ := hring
  refine ⟨⟨?_, ?_⟩, Sideband.reset_ok _, ?_⟩
  · rw [hreserved, hexec, hlen]
    have hzero : s.shutDownPart.sb.owed = 0 := rfl
    omega
  · rw [hreserved, hpend, List.length_append, hlen]
    omega
  · have hsame : s.shutDownPart.ctl = s.ctl := State.foldl_cancelJob_ctl _ s
    rw [hsame]
    exact hctl

theorem State.detachPart_heldOk {s : State} (r : Request) (hexec : s.ring.exec ≠ none) (hs : s.heldOk) :
    (s.detachPart r).heldOk := by
  unfold State.detachPart
  split
  · refine State.finish_heldOk _ ?_ (State.shutDownPart_heldOk hs)
    have hsame : s.shutDownPart.ring.exec = s.ring.exec := by
      simp only [State.shutDownPart, Ring.toDraining, Ring.dropFetches, Ring.refill]
      rw [(foldl_responseDone_places _ _).2.2, State.foldl_cancelJob_ring]
    rw [hsame]
    exact hexec
  · exact State.finish_heldOk _ hexec hs

theorem State.resetPin_heldOk (s : State) : s.resetPin.heldOk :=
  ⟨⟨rfl, Nat.zero_le _⟩, Sideband.reset_ok _, pullControl_length _ _ _ (Nat.zero_le _)⟩

/-! ## Every command, and every step -/

theorem State.request_heldOk {s : State} {kind : Nat} {f : Request → State} (hs : s.heldOk)
    (hf : ∀ r, s.ring.exec ≠ none → (f r).heldOk) : (s.request kind f).heldOk := by
  unfold State.request
  split
  · rename_i hexec
    split
    · exact hf _ (by simp [hexec])
    · exact hs
  · exact hs

theorem State.slotRequest_heldOk {s : State} {kind : Nat} {f : Request → SlotId → State} (hs : s.heldOk)
    (hf : ∀ r n, s.ring.exec ≠ none → (f r n).heldOk) : (s.slotRequest kind f).heldOk := by
  refine State.request_heldOk hs fun r hexec => ?_
  split
  · exact hf r _ hexec
  · exact State.finish_heldOk _ hexec hs

theorem exec_heldOk {s t : State} (c : Instr) (h : exec c s = .next t) (hs : s.heldOk) : t.heldOk := by
  cases c with
  | reset => obtain rfl := Host.Outcome.next.inj h; exact s.resetPin_heldOk
  | grant elapsed => obtain rfl := Host.Outcome.next.inj h; exact State.grant_heldOk elapsed hs
  | memoryCompletion k ok data => obtain rfl := Host.Outcome.next.inj h; exact State.complete_heldOk k ok data hs
  | completionTimeout k =>
    obtain rfl := Host.Outcome.next.inj h
    unfold State.completionTimeout
    split
    · exact State.deadlinePassed_heldOk _ _ ((s.reach_works _).heldOk hs)
    · exact hs
  | requestTake => obtain rfl := Host.Outcome.next.inj h; exact State.takeHeld_heldOk hs
  | admission => obtain rfl := Host.Outcome.next.inj h; exact State.slotRequest_heldOk hs fun r n he => (s.admitSlot_works r n).heldOk he hs
  | stage => obtain rfl := Host.Outcome.next.inj h; exact State.slotRequest_heldOk hs fun r n he => (s.stageSlot_works r n).heldOk he hs
  | commit => obtain rfl := Host.Outcome.next.inj h; exact State.slotRequest_heldOk hs fun r n he => (s.commitSlot_works r n).heldOk he hs
  | hold => obtain rfl := Host.Outcome.next.inj h; exact State.slotRequest_heldOk hs fun r n he => (s.holdSlot_works r n).heldOk he hs
  | resume => obtain rfl := Host.Outcome.next.inj h; exact State.slotRequest_heldOk hs fun r n he => (s.resumeSlot_works r n).heldOk he hs
  | retire => obtain rfl := Host.Outcome.next.inj h; exact State.slotRequest_heldOk hs fun r n he => (s.retireRequest_works r n).heldOk he hs
  | restart => obtain rfl := Host.Outcome.next.inj h; exact State.slotRequest_heldOk hs fun r n he => (s.restartSlot_works r n).heldOk he hs
  | publish => obtain rfl := Host.Outcome.next.inj h; exact State.request_heldOk hs fun r he => (s.publishExtent_works r).heldOk he hs
  | withdraw => obtain rfl := Host.Outcome.next.inj h; exact State.request_heldOk hs fun r he => (s.withdrawExtent_works r).heldOk he hs
  | sideband => obtain rfl := Host.Outcome.next.inj h; exact State.slotRequest_heldOk hs fun r n he => State.sidebandSlot_heldOk r n he hs
  | query => obtain rfl := Host.Outcome.next.inj h; exact State.slotRequest_heldOk hs fun r n he => (s.querySlot_works r n).heldOk he hs
  | detach => obtain rfl := Host.Outcome.next.inj h; exact State.request_heldOk hs fun r he => State.detachPart_heldOk r he hs
  | responseWrite => obtain rfl := Host.Outcome.next.inj h; exact State.responseWrite_heldOk hs
  | statusUnitWrite => obtain rfl := Host.Outcome.next.inj h; exact State.statusWrite_heldOk hs
  | controlRequest r => obtain rfl := Host.Outcome.next.inj h; exact heldOk_of_pull hs rfl rfl rfl rfl rfl hs.2.2.1
  | _ => exact (exec_works _ rfl h).heldOk hs

/-- Settles O58: each update moves a place only with its owner, and the queues are filled as places come free. -/
theorem stepKeepsReservationsAndQueues : Obligations.StepKeepsReservationsAndQueues := by
  unfold Obligations.StepKeepsReservationsAndQueues
  intro s t hplaces hqueues h
  have hs : s.heldOk := ⟨hplaces, hqueues⟩
  unfold step at h
  split at h
  · obtain rfl := Host.Outcome.next.inj h
    exact s.tick_works.heldOk hs
  · exact exec_heldOk _ h hs

end Sys2Proof.Machine
end

section
/-! No command loses a write that the status block is owed (R104, R189). -/

namespace Sys2Proof.Machine

/-! ## The updates and the answers -/

theorem works.owed {s t : State} (h : works s t) : owedKept s t := by
  induction h with
  | refl s => exact owedKept_refl s
  | trans _ _ ih1 ih2 => exact ih1.trans ih2
  | slot s n f => exact s.modSlot_owed n f
  | post s e => exact s.postEvent_owed e
  | rest h =>
    obtain ⟨hslots, hr, -, he, -⟩ := h
    exact owedKept_quiet hslots he (by rw [hr]) (by rw [hr]) (by rw [hr]) (by rw [hr])
  | extent s x e => exact s.setExtent_owed x e
  | dirty s hx => exact s.makeDirty_owed _
  | cancel s n => exact s.cancelJobs_owed n
  | identity s n => exact s.handIdentity_owed n
  | engine s h => exact s.withSb_owed _
  | jobEnd _ _ ih => exact ((State.withSb_owed _ _).trans ih).trans (State.nextJob_owed _)
  | answered s a _ => exact ((s.withSb_owed _).trans (State.respond_owed _ a)).trans (State.nextJob_owed _)
  | record s q => exact owedKept_quiet rfl rfl rfl rfl rfl rfl
  | scrub s => exact s.scrubTake_owed
  | passed s h => exact owedKept_quiet rfl rfl rfl rfl rfl rfl

theorem worksAnswering.owed {s t : State} (h : worksAnswering s t) : owedKept s t := by
  obtain ⟨u, a, hu, ht⟩ := h
  exact (hu.owed.trans (u.finish_owed a)).trans ht.owed

/-! ## The ring request queue -/

/-- What the status block reads of the Ring Interface, and the requests that are owed it, at least. -/
def owesMore (r r' : Ring) : Prop :=
  r'.state = r.state ∧ r'.lost = r.lost ∧
    ∀ u, u ∈ r.stale ∨ RingOp.status u ∈ r.queue → u ∈ r'.stale ∨ RingOp.status u ∈ r'.queue

theorem owesMore_refl (r : Ring) : owesMore r r := ⟨rfl, rfl, fun _ => id⟩

theorem owesMore.trans {a b c : Ring} (h : owesMore a b) (k : owesMore b c) : owesMore a c :=
  ⟨k.1.trans h.1, k.2.1.trans h.2.1, fun u hu => k.2.2 u (h.2.2 u hu)⟩

theorem owesMore.owed {s : State} {r : Ring} (h : owesMore s.ring r) : owedKept s { s with ring := r } :=
  owedKept_of rfl rfl h.1 h.2.1 h.2.2

theorem Ring.enqueue_owes (r : Ring) (op : RingOp) : owesMore r (r.enqueue op) := by
  unfold Ring.enqueue
  split
  · exact ⟨rfl, rfl, fun u hu => hu.imp_right fun h => List.mem_append_left _ h⟩
  · exact ⟨rfl, rfl, fun u hu => hu⟩

theorem Ring.setMirror_owes (r : Ring) (i : Nat) (m : Mirror) : owesMore r (r.setMirror i m) := by
  rw [Ring.setMirror_eq]
  exact owesMore_refl r

theorem Ring.responseWrite_owes (r : Ring) : owesMore r r.responseWrite := by
  unfold Ring.responseWrite
  split
  · exact owesMore_refl r
  split
  · exact ((r.enqueue_owes _).trans (Ring.setMirror_owes _ _ _)).trans ⟨rfl, rfl, fun _ => id⟩
  · exact owesMore_refl r

/-- A place for a write is free, so that the request joins the queue itself (R188). -/
theorem Ring.enqueue_of_placeForWrites {r : Ring} (op : RingOp) (h : r.placeForWrites = true) :
    r.enqueue op = { r with queue := r.queue ++ [op] } := by
  simp only [Ring.placeForWrites, Bool.and_eq_true, decide_eq_true_eq] at h
  obtain ⟨⟨-, hfree⟩, -⟩ := h
  unfold Ring.freePlaces at hfree
  split at hfree
  · rename_i hwait
    unfold Ring.enqueue
    exact if_pos ⟨by omega, hwait⟩
  · omega

theorem Ring.statusWrite_owes (r : Ring) : owesMore r r.statusWrite := by
  unfold Ring.statusWrite
  split
  · exact owesMore_refl r
  rename_i u us hstale
  split
  · rename_i hplace
    rw [Ring.enqueue_of_placeForWrites _ hplace]
    refine ⟨rfl, rfl, fun v hv => ?_⟩
    rw [hstale, List.mem_cons] at hv
    simp only [List.mem_append, List.mem_singleton]
    rcases hv with (rfl | hv) | hv
    · exact .inr (.inr rfl)
    · exact .inl hv
    · exact .inr (.inl hv)
  · exact owesMore_refl r

theorem Ring.take_owes (r : Ring) (q : Request) : owesMore r (r.take q) :=
  ((r.enqueue_owes _).trans (Ring.enqueue_owes _ _)).trans ⟨rfl, rfl, fun _ => id⟩

/-- The end of a response write while the part is attached changes the mirror alone (R186). -/
theorem Ring.responseDone_owes {r : Ring} (i : Nat) (last : Bool) (h : r.state = .attached) :
    owesMore r (r.responseDone i last) := by
  have hset : owesMore r (if r.mirrorAt i = .writing then r.setMirror i .full else r) := by
    split
    · exact r.setMirror_owes i _
    · exact owesMore_refl r
  unfold Ring.responseDone
  dsimp only
  generalize (if r.mirrorAt i = .writing then r.setMirror i .full else r) = r1 at hset ⊢
  rw [if_neg (by simp [hset.1, h])]
  exact hset

theorem Ring.ended_owes {r : Ring} (ref : RingRef) (h : r.state = .attached) : owesMore r (r.ended ref) := by
  cases ref with
  | response i last => exact Ring.responseDone_owes i last h
  | fetch _ => exact owesMore_refl r
  | taken => exact owesMore_refl r
  | status _ => exact owesMore_refl r
  | attachResult => exact owesMore_refl r

theorem State.ended_owed (s : State) (ref : RingRef) : owedKept s { s with ring := s.ring.ended ref } := fun h =>
  (Ring.ended_owes ref h).owed h

theorem Ring.handBack_owes (r : Ring) (w : ControlReq) : owesMore r (r.handBack w) := by
  by_cases h : r.state = .detached
  · rw [Ring.handBack, if_pos h]; exact owesMore_refl r
  · rw [Ring.handBack_eq r w h, foldl_handBackOne_eq]; exact owesMore_refl r

/-! ## Takes, completions and timeouts -/

theorem State.takeHeld_owed (s : State) : owedKept s s.takeHeld := by
  unfold State.takeHeld
  split
  · exact owedKept_refl s
  · rename_i q _
    refine ite_owed _ ((s.ring.take_owes q).owed.trans ?_) (owedKept_refl s)
    unfold State.judge
    exact ite_owed _ (State.finish_owed _ _) (ite_owed _ (State.finish_owed _ _) (owedKept_refl _))

/-- While the part is attached a fetch gives no attach (R181). -/
theorem State.fetched_owed (s : State) (f : FetchTarget) (data : List Beat) : owedKept s (s.fetched f data) := by
  cases f with
  | ringEntry idx =>
    refine owesMore.owed ?_
    unfold Ring.fetched
    split <;> exact ⟨rfl, rfl, fun _ => id⟩
  | attachRecord =>
    intro h
    have hsame : s.fetched .attachRecord data = s := if_pos (.inl (by simp [h]))
    rw [hsame]
    exact owedKept_refl s h

theorem State.completeIssued_owed (s : State) (k : MemTag) (e : Entry) (ok : Bool) (data : List Beat) :
    owedKept s (s.completeIssued k e ok data) := by
  have hfree := s.freeEntry_owed k
  unfold State.completeIssued
  split
  · split
    case h_1 => exact (s.completeRead_works k _ e _ ok data).owed
    case h_7 => exact ite_owed _ hfree (hfree.trans (State.slotWriteError_works _ _ _ _).owed)
    all_goals exact hfree
  · unfold State.completeControl
    dsimp only
    split
    · exact hfree.trans (State.answerControl_owed _ _)
    · exact ite_owed _ (hfree.trans (State.fetched_owed _ _ _)) hfree
    all_goals exact hfree
  · have hfail := ite_owed (ok = false ∧ e.kind = .write)
      (hfree.trans (State.postEvent_owed _ (.memoryWriteError .ring 0 e.addr e.beats .issued))) hfree
    unfold State.completeRing
    dsimp only
    split
    · exact ite_owed _ (hfail.trans (State.fetched_owed _ _ _)) hfail
    · exact hfail.trans (State.ended_owed _ _)
    all_goals exact hfail
  · exact hfree.trans (owedKept_quiet rfl rfl rfl rfl rfl rfl)

theorem State.complete_owed (s : State) (k : MemTag) (ok : Bool) (data : List Beat) : owedKept s (s.complete k ok data) := by
  have hlink : owedKept s { s with trk := { s.trk with link := eraseRequest k s.trk.link } } :=
    owedKept_quiet rfl rfl rfl rfl rfl rfl
  unfold State.complete
  dsimp only
  refine hlink.trans ?_
  split
  · exact State.completeIssued_owed _ _ _ _ _
  · exact (State.completeLate_works _ _ _ _).owed
  · exact (State.completeOrphan_works _ _ _ _).owed
  all_goals exact owedKept_refl _

theorem State.deadlinePassed_owed (s : State) (k : MemTag) (e : Entry) : owedKept s (s.deadlinePassed k e) := by
  have hlate := s.setEntry_owed k { e with state := .late }
  unfold State.deadlinePassed
  dsimp only
  split
  · exact (s.slotTimeout_works k _ e).owed
  · split
    · exact hlate.trans (State.answerControl_owed _ _)
    all_goals exact hlate
  · split
    · exact hlate.trans (State.ended_owed _ _)
    all_goals exact hlate
  · exact hlate.trans (owedKept_quiet rfl rfl rfl rfl rfl rfl)

theorem State.completionTimeout_owed (s : State) (k : MemTag) : owedKept s (s.completionTimeout k) :=
  ite_owed _ ((s.reach_owed _).trans (State.deadlinePassed_owed _ _ _)) (owedKept_refl s)

/-! ## SIDEBAND, DETACH and RESET -/

theorem State.sidebandSlot_owed (s : State) (r : Request) (n : SlotId) : owedKept s (s.sidebandSlot r n) := by
  unfold State.sidebandSlot
  refine ite_owed _ (s.finish_owed _) ?_
  split
  · exact s.finish_owed _
  · exact ite_owed _ (s.finish_owed _) ((owedKept_quiet rfl rfl rfl rfl rfl rfl).trans (State.startJob_owed
      { s with sb := { s.sb with queue := s.sb.queue ++ [sidebandJob r n] }, ring := { s.ring with exec := none } }))

/-- An accepted DETACH leaves the part draining (R191). -/
theorem State.detachPart_owed {s : State} (r : Request) (h : (s.detachPart r).ring.state = .attached) :
    owedKept s (s.detachPart r) := by
  unfold State.detachPart at h ⊢
  split
  · rename_i hall
    rw [if_pos hall] at h
    cases h
  · exact s.finish_owed _

/-! ## Every command -/

theorem State.request_owed {s : State} {kind : Nat} {f : Request → State} (hf : ∀ r, owedKept s (f r)) :
    owedKept s (s.request kind f) := by
  unfold State.request
  split
  · exact ite_owed _ (hf _) (owedKept_refl s)
  · exact owedKept_refl s

theorem State.slotRequest_owed {s : State} {kind : Nat} {f : Request → SlotId → State} (hf : ∀ r n, owedKept s (f r n)) :
    owedKept s (s.slotRequest kind f) := by
  refine State.request_owed fun r => ?_
  split
  · exact hf r _
  · exact s.finish_owed _

/-- A DETACH that leaves the part attached is refused. -/
theorem State.detach_owed {s : State} (h : (s.request 12 s.detachPart).ring.state = .attached) :
    owedKept s (s.request 12 s.detachPart) := by
  unfold State.request at h ⊢
  split
  · rename_i r hexec
    rw [hexec] at h
    dsimp only at h
    split
    · rename_i hkind
      rw [if_pos hkind] at h
      exact State.detachPart_owed r h
    · exact owedKept_refl s
  · exact owedKept_refl s

theorem exec_owed {s t : State} (c : Instr) (hc : ∀ elapsed, c ≠ .grant elapsed) (ht : t.ring.state = .attached)
    (h : exec c s = .next t) : owedKept s t := by
  cases c with
  | reset => obtain rfl := Host.Outcome.next.inj h; cases ht
  | grant elapsed => exact absurd rfl (hc elapsed)
  | memoryCompletion k ok data => obtain rfl := Host.Outcome.next.inj h; exact s.complete_owed k ok data
  | completionTimeout k => obtain rfl := Host.Outcome.next.inj h; exact s.completionTimeout_owed k
  | requestTake => obtain rfl := Host.Outcome.next.inj h; exact s.takeHeld_owed
  | admission => obtain rfl := Host.Outcome.next.inj h; exact State.slotRequest_owed fun r n => (s.admitSlot_works r n).owed
  | stage => obtain rfl := Host.Outcome.next.inj h; exact State.slotRequest_owed fun r n => (s.stageSlot_works r n).owed
  | commit => obtain rfl := Host.Outcome.next.inj h; exact State.slotRequest_owed fun r n => (s.commitSlot_works r n).owed
  | hold => obtain rfl := Host.Outcome.next.inj h; exact State.slotRequest_owed fun r n => (s.holdSlot_works r n).owed
  | resume => obtain rfl := Host.Outcome.next.inj h; exact State.slotRequest_owed fun r n => (s.resumeSlot_works r n).owed
  | retire => obtain rfl := Host.Outcome.next.inj h; exact State.slotRequest_owed fun r n => (s.retireRequest_works r n).owed
  | restart => obtain rfl := Host.Outcome.next.inj h; exact State.slotRequest_owed fun r n => (s.restartSlot_works r n).owed
  | publish => obtain rfl := Host.Outcome.next.inj h; exact State.request_owed fun r => (s.publishExtent_works r).owed
  | withdraw => obtain rfl := Host.Outcome.next.inj h; exact State.request_owed fun r => (s.withdrawExtent_works r).owed
  | sideband => obtain rfl := Host.Outcome.next.inj h; exact State.slotRequest_owed s.sidebandSlot_owed
  | query => obtain rfl := Host.Outcome.next.inj h; exact State.slotRequest_owed fun r n => (s.querySlot_works r n).owed
  | detach => obtain rfl := Host.Outcome.next.inj h; exact State.detach_owed ht
  | responseWrite => obtain rfl := Host.Outcome.next.inj h; exact s.ring.responseWrite_owes.owed
  | statusUnitWrite => obtain rfl := Host.Outcome.next.inj h; exact s.ring.statusWrite_owes.owed
  | controlRequest r => obtain rfl := Host.Outcome.next.inj h; exact owedKept_quiet rfl rfl rfl rfl rfl rfl
  | _ => exact (exec_works _ rfl h).owed

/-! ## Grants: the head of RING's queue alone leaves it with its write (R188, R189) -/

theorem State.grantControl_owed (s : State) (k : MemTag) : owedKept s (s.grantControl k) := by
  unfold State.grantControl
  split
  · exact owedKept_refl s
  · unfold State.grantTrailing
    dsimp only
    split <;> exact owedKept_quiet rfl rfl rfl rfl rfl rfl
  · rename_i r rest _
    refine ite_owed _ ?_ ?_
    · unfold State.answerFilled
      dsimp only
      exact ite_owed _ (owedKept_header rfl rfl fun _ => rfl) (owedKept_quiet rfl rfl rfl rfl rfl rfl)
    · obtain ⟨hst, hlost, howes⟩ := s.ring.handBack_owes r
      exact owedKept_of rfl rfl hst hlost howes

theorem fillOps_mem (q ops : List RingOp) {op : RingOp} (h : op ∈ q) : op ∈ (fillOps q ops).1 := by
  induction ops generalizing q with
  | nil => exact h
  | cons o ops ih =>
    unfold fillOps
    split
    · exact ih _ (List.mem_append_left _ h)
    · exact h

/-- A grant to RING loses at most the head's write, which it sends. -/
theorem State.grantRing_owes {s : State} {op : RingOp} {rest : List RingOp} (k : MemTag) (hq : s.ring.queue = op :: rest)
    (u : StatusUnit) : (s.grantRing k).unitShows u = s.unitShows u ∧
      (s.owes u → (s.grantRing k).owes u ∨ op = .status u) := by
  unfold State.grantRing
  rw [hq]
  refine ⟨State.unitShows_congr rfl rfl rfl rfl u, fun h => ?_⟩
  rw [State.owes, hq, List.mem_cons] at h
  rcases h with h | h | h
  · exact .inl (.inl h)
  · exact .inr h.symm
  · exact .inl (.inr (fillOps_mem _ _ h))

/-- What a grant loses is what RING's head carries. -/
theorem State.decideGrant_owes {s : State} (hatt : s.ring.state = .attached) (u : StatusUnit) :
    s.decideGrant.owes u ∨ (s.decideGrant.unitShows u = s.unitShows u ∧
      (s.owes u → s.grantsNext .ring ∧ s.ring.queue.head? = some (.status u))) := by
  have hkept : ∀ {t : State}, owedKept s t → t.owes u ∨ (t.unitShows u = s.unitShows u ∧
      (s.owes u → s.grantsNext .ring ∧ s.ring.queue.head? = some (.status u))) := fun {t} h => by
    by_cases hu : s.owes u ∨ t.unitShows u ≠ s.unitShows u
    · exact .inl ((h hatt).2 u hu)
    · rw [not_or, not_not] at hu
      exact .inr ⟨hu.2, fun ho => absurd ho hu.1⟩
  unfold State.decideGrant
  split
  · rename_i k p _ hfind
    cases p with
    | slot n => exact hkept (State.grantSlot_works s k n).owed
    | control => exact hkept (s.grantControl_owed k)
    | scrub =>
      refine hkept ?_
      unfold State.grantTo State.grantScrub
      dsimp only
      split
      · exact owedKept_refl s
      · exact owedKept_quiet rfl rfl rfl rfl rfl rfl
    | ring =>
      cases hq : s.ring.queue with
      | nil =>
        refine (hq ▸ hkept) ?_
        unfold State.grantTo State.grantRing
        rw [hq]
        exact owedKept_refl s
      | cons op rest =>
        obtain ⟨hshow, howes⟩ := State.grantRing_owes k hq u
        by_cases ho : (s.grantRing k).owes u
        · exact .inl ho
        · refine .inr ⟨hshow, fun hs => ⟨State.grantsNext_of_find hfind, ?_⟩⟩
          rw [(howes hs).resolve_left ho]
          rfl
  all_goals exact hkept (owedKept_refl s)

/-- Settles O55: each operation marks what it changes, and only RING's granted head takes a write out of the queue. -/
theorem changedUnitsAreOwed : Obligations.ChangedUnitsAreOwed := by
  unfold Obligations.ChangedUnitsAreOwed
  refine ⟨fun s t c hc hs ht h => (exec_owed c hc ht h hs).2, fun s m hs => s.reach_owed m hs, ?_⟩
  intro before s t elapsed hreach hs h u
  obtain rfl := Host.Outcome.next.inj h
  have hsame : s = before.elapse elapsed := by rw [hreach, State.reach, Nat.add_sub_cancel_left]
  rw [State.grant, ← hsame]
  exact State.decideGrant_owes hs u

end Sys2Proof.Machine
end

section
/-! The block: one step of it, RESET, expiries outside their state; and the slot lines in the cases that change one slot. -/

namespace Sys2Proof.Machine

/-! ## One step and time (log 5) -/

theorem State.reach_next (s : State) : s.reach (s.now + 1) = s.tick := by simp [State.reach, State.elapse]

/-- A later moment is reached through the one before it. -/
theorem State.reach_succ {s : State} {m : Nat} (h : s.now ≤ m) : s.reach (m + 1) = (s.reach m).reach (m + 1) := by
  have hnow : (s.reach m).now = m := by rw [(s.reach_passesTime m).2]; omega
  have hlen : m + 1 - s.now = (m - s.now) + 1 := by omega
  calc s.reach (m + 1) = (s.reach m).elapse 1 := by rw [State.reach, hlen, State.elapse_add]; rfl
    _ = (s.reach m).elapse (m + 1 - (s.reach m).now) := by rw [hnow, Nat.add_sub_cancel_left]

/-- Settles O1. -/
theorem stepRunsTheFrontCommand : Obligations.StepRunsTheFrontCommand := by
  refine ⟨fun c rest s h => ?_, fun s h => ?_, fun s m h => s.reach_self m h, fun s m h => State.reach_succ h⟩
  · simp [step, h]
  · simp [step, h, State.reach_next]

/-! ## RESET -/

theorem State.extent_of_cleared {s : State} (h : s.ext.records = Vector.replicate 2048 Extent.free) (x : Nat) :
    s.extent x = Extent.free := by
  unfold State.extent
  split
  · rw [h]; exact Vector.getElem_replicate _
  · rfl

/-- Settles O2: the state that RESET leaves, field by field. -/
theorem resetPutsEveryBlockToItsResetValues : Obligations.ResetPutsEveryBlockToItsResetValues := fun s =>
  ⟨s.resetPin, rfl, fun n => Vector.getElem_replicate n.isLt, rfl, rfl, State.extent_of_cleared rfl, rfl, rfl, rfl, rfl, rfl,
    rfl, fun i => Vector.getElem_replicate i.isLt, rfl, rfl, rfl, rfl, rfl, rfl, rfl, rfl, rfl,
    fun h => ControlPort.pull_nil { s.ctl with queue := [] } h, rfl, rfl, rfl, rfl, rfl, rfl, rfl, rfl, rfl⟩

/-! ## Expiries -/

theorem State.expiry_of_ne {s : State} {n : SlotId} {st : SlotState} (h : (s.slot n).state ≠ st) (f : State → State) :
    s.expiry n st f = s := by
  simp [State.expiry, h]

theorem State.expiry_of_eq {s : State} {n : SlotId} {st : SlotState} (h : (s.slot n).state = st) (f : State → State) :
    s.expiry n st f = f (s.reach (s.slot n).timer.due) := by
  simp [State.expiry, h, State.reachDue]

/-- Settles O11. -/
theorem expiriesActOnlyInTheirState : Obligations.ExpiriesActOnlyInTheirState := fun s n =>
  have ignored (st : SlotState) (f : State → State) (h : (s.slot n).state ≠ st) :
      (.next (s.expiry n st f) : StepResult) = .next s := by rw [State.expiry_of_ne h]
  ⟨ignored _ _, ignored _ _, ignored _ _, ignored _ _, ignored _ _, ignored _ _, ignored _ _, ignored _ _, fun m =>
    have ⟨⟨htrk, hctl, hparams, hsel, hpending, _, hslot⟩, hnow⟩ := s.reach_passesTime m
    ⟨hnow, htrk, hctl, hparams, hsel, hpending, hslot n⟩⟩

/-! ## Presence -/

theorem State.attached_of {s : State} (h : s.ring.state = .attached) : s.attached = true := by simp [State.attached, h]

/-- A rise in a state that it does not leave changes the level alone. -/
theorem State.presenceRise_eq_level {s : State} {n : SlotId}
    (h : s.ring.state ≠ .attached ∨ ((s.slot n).state ≠ .empty ∧ (s.slot n).state ≠ .vacating)) :
    s.presenceRise n = s.modSlot n fun sl => { sl with present := true } := by
  unfold State.presenceRise
  dsimp only
  rcases h with ha | ⟨he, hv⟩
  · rw [if_pos ((State.attached_iff s).mpr ha)]
  · split
    · rfl
    · cases hst : (s.slot n).state <;> simp_all

theorem State.presenceRise_of_empty {s : State} {n : SlotId} (ha : s.ring.state = .attached)
    (hst : (s.slot n).state = .empty) :
    s.presenceRise n = (s.modSlot n fun sl => { sl with present := true }).seat n := by
  simp only [State.presenceRise, State.attached_of ha, hst, Bool.true_eq_false, if_false]

theorem State.presenceRise_of_vacating {s : State} {n : SlotId} (ha : s.ring.state = .attached)
    (hst : (s.slot n).state = .vacating) :
    s.presenceRise n =
      (s.modSlot n fun sl => { sl with present := true }).modSlot n fun sl => { sl with seated := true } := by
  simp only [State.presenceRise, State.attached_of ha, hst, Bool.true_eq_false, if_false]

/-- Settles O3, by the states in which a rise does more than change the level. -/
theorem presenceRiseSeatsOrRecords : Obligations.PresenceRiseSeatsOrRecords := by
  intro s n
  refine ⟨s.presenceRise n, rfl, ?_⟩
  by_cases ha : s.ring.state = .attached
  · by_cases he : (s.slot n).state = .empty
    · rw [if_pos ⟨ha, he⟩, State.presenceRise_of_empty ha he]
      exact ⟨rfl, slotBecomes_modSlot_twice n s (fun sl => { sl with present := true })
        fun sl => sl.toSeating s.now s.params.debounce⟩
    · by_cases hv : (s.slot n).state = .vacating
      · rw [if_neg fun h => he h.2, if_pos ⟨ha, hv⟩, State.presenceRise_of_vacating ha hv]
        exact ⟨rfl, slotBecomes_modSlot_twice n s (fun sl => { sl with present := true }) fun sl => { sl with seated := true }⟩
      · rw [if_neg fun h => he h.2, if_neg fun h => hv h.2, State.presenceRise_eq_level (Or.inr ⟨he, hv⟩)]
        exact ⟨rfl, slotBecomes_modSlot n s fun sl => { sl with present := true }⟩
  · rw [if_neg fun h => ha h.1, if_neg fun h => ha h.1, State.presenceRise_eq_level (Or.inl ha)]
    exact ⟨rfl, slotBecomes_modSlot n s fun sl => { sl with present := true }⟩

theorem State.presenceDrop_eq_pullOut {s : State} {n : SlotId} (ha : s.ring.state = .attached)
    (hst : (s.slot n).state ∈ [.powering, .identifying, .pending, .probing, .retired, .faulted]) :
    s.presenceDrop n = (s.modSlot n fun sl => { sl with present := false }).pullOut n := by
  simp only [State.presenceDrop, State.attached_of ha, Bool.true_eq_false, if_false]
  simp only [List.mem_cons, List.not_mem_nil, or_false] at hst
  rcases hst with h | h | h | h | h | h <;> rw [h]

theorem State.presenceDrop_eq_vacate {s : State} {n : SlotId} (ha : s.ring.state = .attached)
    (hst : (s.slot n).state ∈ [.settling, .live, .holding, .held, .grace, .retiring]) :
    s.presenceDrop n = (s.modSlot n fun sl => { sl with present := false }).vacate n := by
  simp only [State.presenceDrop, State.attached_of ha, Bool.true_eq_false, if_false]
  simp only [List.mem_cons, List.not_mem_nil, or_false] at hst
  rcases hst with h | h | h | h | h | h <;> rw [h]

/-- A drop in a state that it does not leave changes the level alone. -/
theorem State.presenceDrop_eq_level {s : State} {n : SlotId}
    (h : s.ring.state ≠ .attached ∨ (s.slot n).state ∈ [.empty, .vacating]) :
    s.presenceDrop n = s.modSlot n fun sl => { sl with present := false } := by
  unfold State.presenceDrop
  dsimp only
  rcases h with ha | hst
  · rw [if_pos ((State.attached_iff s).mpr ha)]
  · simp only [List.mem_cons, List.not_mem_nil, or_false] at hst
    rcases hst with h | h <;> simp only [h, ite_self]

/-- A slot pulled out after its level has changed. -/
theorem State.pullOut_spec (s : State) (n : SlotId) (up : Bool) :
    shutsDown n s ((s.modSlot n fun sl => { sl with present := up }).pullOut n)
      ({ (s.slot n).shut with present := up } : Slot).toEmpty
      (.removed n (s.slot n).incarnation false (s.slot n).state) := by
  unfold State.pullOut
  simp only [State.modSlot_slot_self]
  exact shutsDown_of_modSlot s n (fun sl => { sl with present := up }) Slot.toEmpty _ rfl rfl

/-- Settles O4. -/
theorem presenceDropOutsideTrafficEmpties : Obligations.PresenceDropOutsideTrafficEmpties := by
  intro s n
  refine ⟨fun ha hst => ⟨s.presenceDrop n, rfl, ?_⟩, fun ha hst => ⟨s.presenceDrop n, rfl, ?_⟩,
    fun h => ⟨s.presenceDrop n, rfl, ?_⟩⟩
  · rw [State.presenceDrop_eq_pullOut ha hst]
    exact ⟨by simp [State.pullOut], s.pullOut_spec n false⟩
  · simp only [State.presenceDrop, State.attached_of ha, hst, Bool.true_eq_false, if_false]
    exact ⟨rfl, slotBecomes_modSlot_twice n s (fun sl => { sl with present := false })
      fun sl => (sl.toEmpty).count Counters.addBounce⟩
  · rw [State.presenceDrop_eq_level h]
    exact ⟨rfl, slotBecomes_modSlot n s fun sl => { sl with present := false }⟩

end Sys2Proof.Machine
end

section
/-! A slot's activity ended after changes of its record, of the moment or of its jobs: the end takes the same map, entries and
jobs as it would have taken before those changes. -/

namespace Sys2Proof.Machine

/-- An end of slot `n`'s activity takes from `s'` what it takes from `s`: `s'` differs in slot `n`'s record, but not in its map,
its queue and its incarnation, and in that the slot's jobs may have been cancelled and answered already. -/
structure endsAs (n : SlotId) (s s' : State) : Prop where
  map : (s'.slot n).map = (s.slot n).map
  ingress : (s'.slot n).ingress = (s.slot n).ingress
  incarnation : (s'.slot n).incarnation = (s.slot n).incarnation
  others : ∀ m, m ≠ n → s'.slot m = s.slot m
  trk : s'.trk = s.trk
  ext : s'.ext = s.ext
  scrub : s'.scrub = s.scrub
  now : s'.now = s.now
  rest : keepsRest s s'
  jobs : s'.jobsCancelled n = s.jobsCancelled n
  shut : ∀ r, ringShut n s' r → ringShut n s r

theorem keepsRest_refl (s : State) : keepsRest s s := ⟨rfl, rfl, rfl, rfl, rfl⟩

theorem keepsRest.trans {s t u : State} (h : keepsRest s t) (k : keepsRest t u) : keepsRest s u := by
  obtain ⟨h1, h2, h3, h4, h5⟩ := h
  obtain ⟨k1, k2, k3, k4, k5⟩ := k
  exact ⟨k1.trans h1, k2.trans h2, k3.trans h3, k4.trans h4, k5.trans h5⟩

theorem endsAs.refl (n : SlotId) (s : State) : endsAs n s s :=
  ⟨rfl, rfl, rfl, fun _ _ => rfl, rfl, rfl, rfl, rfl, keepsRest_refl s, rfl, fun _ h => h⟩

theorem endsAs.entry {n : SlotId} {s s' : State} (h : endsAs n s s') (k : MemTag) : s'.entry k = s.entry k :=
  State.entry_of_trk_eq _ _ h.trk k

/-- The slot's record changed further, but for what an end takes. -/
theorem endsAs.modSlot {n : SlotId} {s s' : State} (h : endsAs n s s') {f : Slot → Slot}
    (hmap : (f (s'.slot n)).map = (s'.slot n).map) (hin : (f (s'.slot n)).ingress = (s'.slot n).ingress)
    (hinc : (f (s'.slot n)).incarnation = (s'.slot n).incarnation)
    (hlow : (f (s'.slot n)).sbdatLow = (s'.slot n).sbdatLow) : endsAs n s (s'.modSlot n f) where
  map := by rw [State.modSlot_slot_self, hmap, h.map]
  ingress := by rw [State.modSlot_slot_self, hin, h.ingress]
  incarnation := by rw [State.modSlot_slot_self, hinc, h.incarnation]
  others m hm := by rw [State.modSlot_slot_of_ne _ _ _ _ hm, h.others m hm]
  trk := h.trk
  ext := h.ext
  scrub := h.scrub
  now := h.now
  rest := h.rest.trans (by simp [keepsRest])
  jobs := by
    have hline : ∀ m, ((s'.modSlot n f).slot m).sbdatLow = (s'.slot m).sbdatLow := by
      intro m
      rw [State.modSlot_slot]
      split
      · rename_i hm; rw [hm, hlow]
      · rfl
    have hgo : (s'.modSlot n f).jobsCancelled n = s'.jobsCancelled n := State.goesOn_congr hline rfl _
    exact hgo.trans h.jobs
  shut r hr := h.shut r (by unfold ringShut at hr ⊢; rw [hr, State.modSlot_ring_eq]; rfl)

theorem endsAs.isolate {n : SlotId} {s s' : State} (h : endsAs n s s') : endsAs n s (s'.isolate n) :=
  h.modSlot (f := Slot.isolated) rfl rfl rfl rfl

/-- An engine without jobs of the slot has none to answer. -/
theorem State.jobsOf_eq_nil {s : State} {n : SlotId} (h : s.sb.noJobs n) : s.jobsOf n = [] := by
  simp only [State.jobsOf, List.filter_eq_nil_iff, beq_iff_eq]
  exact h.1

/-- After a power-off the slot's jobs are cancelled already. -/
theorem endsAs.powerOff {n : SlotId} {s s' : State} (h : endsAs n s s') : endsAs n s (s'.powerOff n) := by
  obtain ⟨hslot, hother, hsb, hring⟩ := State.powerOff_spec s' n
  have hno : (s'.powerOff n).sb.noJobs n := hsb ▸ State.noJobs_jobsCancelled s' n
  exact
    { map := by rw [hslot]; exact h.map
      ingress := by rw [hslot]; exact h.ingress
      incarnation := by rw [hslot]; exact h.incarnation
      others := fun m hm => (hother m hm).trans (h.others m hm)
      trk := by rw [State.powerOff_trk, h.trk]
      ext := by rw [State.powerOff_ext, h.ext]
      scrub := by rw [State.powerOff_scrub, h.scrub]
      now := by rw [State.powerOff_now, h.now]
      rest := h.rest.trans (by simp [keepsRest])
      jobs := (State.jobsCancelled_again hsb).trans h.jobs
      shut := fun r hr => h.shut r (by
        unfold ringShut at hr hring ⊢
        rw [hr, hring, State.jobsOf_eq_nil hno]
        simp [noBladeAnswers]) }

theorem endsAs.writesLeft {n : SlotId} {s s' : State} (h : endsAs n s s') : s'.writesLeft n ↔ s.writesLeft n := by
  simp only [State.writesLeft, h.ingress, h.incarnation, h.entry]

theorem endsAs.scrubHears {n : SlotId} {s s' t : State} {js : List Nat} (h : endsAs n s s') (k : scrubHears s' t js) :
    scrubHears s t js := by
  simpa only [Machine.scrubHears, h.entry, h.scrub] using k

/-- A slot shut down after such changes is shut down. -/
theorem shutsDown.of_endsAs {n : SlotId} {s s' t : State} {sl : Slot} {e : Event} (h : shutsDown n s' t sl e)
    (hs : endsAs n s s') : shutsDown n s t sl e := by
  obtain ⟨hslot, hother, htrk, hmap, hsb, hno, ⟨r, hr, hring⟩, hrest⟩ := h
  exact ⟨hslot, fun m hm => (hother m hm).trans (hs.others m hm), htrk.trans hs.trk,
    mapReleased_congr hmap hs.ext.symm hs.scrub.symm hs.map.symm (fun k => (hs.entry k).symm) rfl rfl fun _ => rfl,
    hsb.trans hs.jobs, hno, ⟨r, hs.shut r hr, hring⟩, hs.rest.trans hrest⟩

/-- A link-down drain that begins after such changes. -/
theorem drainsLinkDown.of_endsAs {n : SlotId} {s s' t : State} {sl : Slot} (h : drainsLinkDown n s' t sl)
    (hs : endsAs n s s') : drainsLinkDown n s t sl := by
  obtain ⟨hother, ⟨hentry, htrk⟩, hrest, hleft, hnone⟩ := h
  refine ⟨fun m hm => (hother m hm).trans (hs.others m hm), ⟨fun k => ?_, ?_⟩, hs.rest.trans hrest, fun hw => ?_, fun hw => ?_⟩
  · rw [hentry, hs.entry, hs.incarnation]
  · rw [htrk, hs.trk]
  · obtain ⟨hslot, hext, hhears⟩ := hleft (hs.writesLeft.mpr hw)
    exact ⟨hslot, hext.trans hs.ext, hs.scrubHears hhears⟩
  · obtain ⟨hslot, hmap, hsb, hno, r, hr, hring⟩ := hnone (hs.writesLeft.not.mpr hw)
    exact ⟨hslot, mapReleased_congr hmap hs.ext.symm hs.scrub.symm hs.map.symm (fun k => (hs.entry k).symm) rfl rfl fun _ => rfl,
      hsb.trans hs.jobs, hno, r, hs.shut r hr, hring⟩

/-- The link-down drain begun after such changes of the state `s`. -/
theorem endsAs.linkDownDrain {n : SlotId} {s s' : State} (h : endsAs n s s') :
    (s'.linkDownDrain n).now = s.now ∧ drainsLinkDown n s (s'.linkDownDrain n) (s'.slot n).drainOfWrites ∧
      (s.writesLeft n → (s'.linkDownDrain n).sb = s'.sb ∧ (s'.linkDownDrain n).ring = s'.ring) := by
  obtain ⟨hdrain, hnow, hleft⟩ := State.linkDownDrain_spec s' n
  exact ⟨hnow.trans h.now, hdrain.of_endsAs h, fun hw => hleft (h.writesLeft.mpr hw)⟩

/-- A drain that begins with the power off has the slot's jobs cancelled and answered, whether or not a write is left. -/
theorem endsAs.linkDownDrain_off {n : SlotId} {s s' : State} (h : endsAs n s s') (hsb : s'.sb = s.jobsCancelled n)
    (hring : ringShut n s s'.ring) :
    (s'.linkDownDrain n).sb = s.jobsCancelled n ∧ (s'.linkDownDrain n).sb.noJobs n ∧
      (s.writesLeft n → ringShut n s (s'.linkDownDrain n).ring) := by
  obtain ⟨-, hdrain, hleft⟩ := h.linkDownDrain
  have hcancelled : (s'.linkDownDrain n).sb = s.jobsCancelled n := by
    by_cases hw : s.writesLeft n
    · rw [(hleft hw).1, hsb]
    · obtain ⟨-, -, -, -, hnone⟩ := hdrain
      exact (hnone hw).2.2.1
  exact ⟨hcancelled, hcancelled ▸ State.noJobs_jobsCancelled s n, fun hw => (hleft hw).2 ▸ hring⟩

/-! ## Faults and drain ends -/

theorem State.faultSlot_spec (s : State) (n : SlotId) (c : FaultCause) :
    shutsDown n s (s.faultSlot n c) ((s.slot n).faulted c)
      (.faulted n (s.slot n).incarnation (s.slot n).forced 0 c (faultMask (s.slot n) c)) :=
  shutsDown_of s n (fun sl => sl.toFaulted c) _

@[simp] theorem State.faultSlot_now (s : State) (n : SlotId) (c : FaultCause) : (s.faultSlot n c).now = s.now := by
  simp [State.faultSlot]

/-- Settles O9: the fault is entered after the level alone has changed. -/
theorem pwrGoodDropBeforeTrafficFaults : Obligations.PwrGoodDropBeforeTrafficFaults := by
  intro s n ha hst
  have hdrop : s.pwrGoodDrop n = (s.modSlot n fun sl => { sl with pwrGood := false }).faultSlot n .powerLost := by
    simp only [State.pwrGoodDrop, State.attached_of ha, Bool.true_eq_false, if_false]
    simp only [List.mem_cons, List.not_mem_nil, or_false] at hst
    rcases hst with h | h | h <;> rw [h]
  refine ⟨s.pwrGoodDrop n, rfl, by simp [hdrop], ?_⟩
  have h := (State.faultSlot_spec (s.modSlot n fun sl => { sl with pwrGood := false }) n .powerLost).of_endsAs
    ((endsAs.refl n s).modSlot rfl rfl rfl rfl)
  rw [hdrop]
  rw [State.modSlot_slot_self] at h
  exact h

/-- The record before and after a power loss: the link isolated and the power off. -/
theorem State.isolate_powerOff_slot (s : State) (n : SlotId) :
    ((s.isolate n).powerOff n).slot n = { (s.slot n).isolated with pwrEn := false, sbdatLow := false } := by
  rw [State.powerOff_slot, if_pos rfl, State.isolate_slot, if_pos rfl]

/-- The engine and the ring after the link is isolated and the power off, where the slot's record alone had changed. -/
theorem endsAs.isolate_powerOff {n : SlotId} {s s' : State} (h : endsAs n s s') :
    endsAs n s ((s'.isolate n).powerOff n) ∧ ((s'.isolate n).powerOff n).sb = s.jobsCancelled n ∧
      ringShut n s ((s'.isolate n).powerOff n).ring := by
  obtain ⟨-, -, hsb, hring⟩ := State.powerOff_spec (s'.isolate n) n
  exact ⟨h.isolate.powerOff, hsb.trans h.isolate.jobs, h.isolate.shut _ hring⟩

theorem ringShut_modSlot {n : SlotId} {s s' : State} (h : ringShut n s s'.ring) (f : Slot → Slot) :
    ringShut n s (s'.modSlot n f).ring := by
  unfold ringShut at h ⊢
  rw [State.modSlot_ring_eq, h]

/-- Settles O10, by the states in which the drop loses power in traffic, in RETIRING, and elsewhere. -/
theorem pwrGoodDropInTrafficRetires : Obligations.PwrGoodDropInTrafficRetires := by
  intro s n ha
  have hlevel : endsAs n s (s.modSlot n fun sl => { sl with pwrGood := false }) :=
    (endsAs.refl n s).modSlot rfl rfl rfl rfl
  obtain ⟨hoff, hsb, hring⟩ := hlevel.isolate_powerOff
  refine ⟨fun hst => ⟨s.pwrGoodDrop n, rfl, ?_⟩, fun hst hen => ⟨s.pwrGoodDrop n, rfl, ?_⟩,
    fun hst => ⟨s.pwrGoodDrop n, rfl, ?_⟩⟩
  · have hdrop : s.pwrGoodDrop n = (s.modSlot n fun sl => { sl with pwrGood := false }).losePower n := by
      simp only [State.pwrGoodDrop, State.attached_of ha, Bool.true_eq_false, if_false]
      simp only [List.mem_cons, List.not_mem_nil, or_false] at hst
      rcases hst with h | h | h | h | h <;> rw [h]
    have hs := hoff.modSlot (f := fun sl => sl.toRetiring (some .powerLost) s.now s.params.drainLimit) rfl rfl rfl rfl
    obtain ⟨hnow, hdrain, -⟩ := hs.linkDownDrain
    obtain ⟨hjobs, hno, hshut⟩ := hs.linkDownDrain_off hsb (ringShut_modSlot hring _)
    rw [State.modSlot_slot_self, State.isolate_powerOff_slot, State.modSlot_slot_self] at hdrain
    rw [hdrop]
    unfold State.losePower State.toRetiring
    simp only [State.powerOff_now, State.isolate_now, State.modSlot_now, State.powerOff_params, State.isolate_params,
      State.modSlot_params]
    exact ⟨hnow, hdrain, hjobs, hno, hshut⟩
  · have hdrop : s.pwrGoodDrop n = (s.modSlot n fun sl => { sl with pwrGood := false }).losePowerRetiring n := by
      simp only [State.pwrGoodDrop, State.attached_of ha, Bool.true_eq_false, if_false]
      rw [hst]
      simp only [hen, if_true]
    have hs := hoff.modSlot (f := fun sl => { sl with pendingFault := some .powerLost }) rfl rfl rfl rfl
    obtain ⟨hnow, hdrain, -⟩ := hs.linkDownDrain
    obtain ⟨hjobs, hno, hshut⟩ := hs.linkDownDrain_off hsb (ringShut_modSlot hring _)
    rw [State.modSlot_slot_self, State.isolate_powerOff_slot, State.modSlot_slot_self] at hdrain
    rw [hdrop]
    exact ⟨hnow, hdrain, hjobs, hno, hshut⟩
  · have hdrop : s.pwrGoodDrop n = s.modSlot n fun sl => { sl with pwrGood := false } := by
      simp only [State.pwrGoodDrop, State.attached_of ha, Bool.true_eq_false, if_false]
      simp only [List.mem_cons, List.not_mem_nil, or_false] at hst
      rcases hst with (h | h | h | h | h | h) | ⟨h, hen⟩ <;> rw [h]
      simp only [hen, Bool.false_eq_true, if_false]
    rw [hdrop]
    exact ⟨rfl, slotBecomes_modSlot n s fun sl => { sl with pwrGood := false }⟩

end Sys2Proof.Machine
end

section
/-! The ends of VACATING and of RETIRING, the presence drop in traffic, and the faults before traffic. -/

namespace Sys2Proof.Machine

/-! ## A presence drop in a traffic state (R24, R148) -/

/-- A slot's record as it enters VACATING. -/
def Slot.vacating (sl : Slot) (now drainLimit : Nat) : Slot :=
  { sl.drainOfWrites with
    present := false, state := .vacating, pwrEn := false, sbdatLow := false, resume := none, pendingFault := none,
    forced := false, seated := false, timer := .running now (drainLimit * 1000) }

/-- The state in which the drain of a VACATING slot begins: the presence low, the link isolated and the power off, the reads
given up. -/
def State.vacatingOf (s : State) (n : SlotId) : State :=
  (((((s.modSlot n fun sl => { sl with present := false }).isolate n).powerOff n).modSlot n fun sl =>
    { sl with
      state := .vacating, resume := none, pendingFault := none, forced := false, seated := false,
      timer := .running s.now (s.params.drainLimit * 1000) })).dropReads n

theorem State.presenceDrop_eq_settle {s : State} {n : SlotId} (ha : s.ring.state = .attached)
    (hst : (s.slot n).state ∈ [.settling, .live, .holding, .held, .grace, .retiring]) :
    s.presenceDrop n =
      ((s.vacatingOf n).postEvent (.removed n (s.slot n).incarnation true (s.slot n).state)).settleVacating n := by
  rw [State.presenceDrop_eq_vacate ha hst]
  unfold State.vacate State.vacatingOf
  simp only [State.modSlot_slot_self, State.modSlot_now, State.modSlot_params]

/-- What the entry to VACATING makes of the part before the drain is looked at. -/
theorem State.vacatingOf_spec (s : State) (n : SlotId) :
    (s.vacatingOf n).slot n = (s.slot n).vacating s.now s.params.drainLimit ∧
      (∀ m, m ≠ n → (s.vacatingOf n).slot m = s.slot m) ∧
      entriesBecome s (s.vacatingOf n) (fun e => e.givenUp n (s.slot n).incarnation) ∧
      (s.vacatingOf n).sb = s.jobsCancelled n ∧ keepsRest s (s.vacatingOf n) ∧ (s.vacatingOf n).ext = s.ext ∧
      scrubHears s (s.vacatingOf n) [] ∧ ringShut n s (s.vacatingOf n).ring ∧ (s.vacatingOf n).now = s.now ∧
      ((s.vacatingOf n).drained n = true ↔ ¬ s.writesLeft n) := by
  have hlevel : endsAs n s (s.modSlot n fun sl => { sl with present := false }) :=
    (endsAs.refl n s).modSlot rfl rfl rfl rfl
  obtain ⟨hoff, hsb, hring⟩ := hlevel.isolate_powerOff
  have hslot := State.isolate_powerOff_slot (s.modSlot n fun sl => { sl with present := false }) n
  unfold State.vacatingOf
  generalize ((s.modSlot n fun sl => { sl with present := false }).isolate n).powerOff n = u at hoff hsb hring hslot ⊢
  have hv := hoff.modSlot (f := fun sl =>
    { sl with
      state := .vacating, resume := none, pendingFault := none, forced := false, seated := false,
      timer := .running s.now (s.params.drainLimit * 1000) }) rfl rfl rfl rfl
  have hringv := ringShut_modSlot hring fun sl =>
    { sl with
      state := .vacating, resume := none, pendingFault := none, forced := false, seated := false,
      timer := .running s.now (s.params.drainLimit * 1000) }
  refine ⟨?_, fun m hm => ?_, ⟨fun k => ?_, ?_⟩, ?_, ?_, ?_, ?_, ?_, ?_, ?_⟩
  · rw [State.dropReads_slot_self, State.modSlot_slot_self, hslot, State.modSlot_slot_self]
    rfl
  · rw [State.dropReads_slot_of_ne _ _ _ hm, hv.others m hm]
  · rw [State.dropReads_entry, hv.incarnation, hv.entry]
  · rw [State.dropReads_trk, hv.trk]
  · rw [State.dropReads_sb, State.modSlot_sb, hsb]
  · exact hv.rest.trans (by simp [keepsRest])
  · rw [State.dropReads_ext, hv.ext]
  · exact hv.scrubHears (State.dropReads_scrubHears _ n)
  · rw [State.dropReads_ring]; exact hringv
  · rw [State.dropReads_now, hv.now]
  · rw [State.drained_dropReads, hv.writesLeft]

/-- Settles O5: the drain of the slot that has entered VACATING is looked at in the same step. -/
theorem presenceDropInTrafficVacates : Obligations.PresenceDropInTrafficVacates := by
  intro s n ha hst
  obtain ⟨hslot, hother, hentries, hsb, hrest, hext, hhears, hring, hnow, hdrained⟩ := s.vacatingOf_spec n
  refine ⟨s.presenceDrop n, rfl, ?_⟩
  rw [State.presenceDrop_eq_settle ha hst]
  generalize s.vacatingOf n = v at *
  generalize Event.removed n (s.slot n).incarnation true (s.slot n).state = e
  by_cases hw : s.writesLeft n
  · have hstay : (v.postEvent e).settleVacating n = v.postEvent e := by
      unfold State.settleVacating
      exact if_neg fun hd => hdrained.mp hd hw
    rw [hstay]
    exact ⟨hnow, hother, hentries, hsb, hsb ▸ State.noJobs_jobsCancelled s n, hrest,
      fun _ => ⟨hslot, hext, hhears, v.ring, hring, rfl⟩, fun h => absurd hw h⟩
  · have hend : (v.postEvent e).settleVacating n = (v.postEvent e).endVacating n := by
      unfold State.settleVacating
      exact if_pos (hdrained.mpr hw)
    obtain ⟨gslot, gother, gtrk, gsb, gmap, grest, gnow, r', hr', hnoticed⟩ := State.endVacating_spec (v.postEvent e) n
    rw [hend]
    have hparams : v.params = s.params := hrest.2.1
    have hsb' : ((v.postEvent e).endVacating n).sb = s.jobsCancelled n := gsb.trans hsb
    refine ⟨gnow.trans hnow, fun m hm => (gother m hm).trans (hother m hm), ⟨fun k => ?_, ?_⟩, hsb',
      hsb' ▸ State.noJobs_jobsCancelled s n, hrest.trans grest, fun h => absurd h hw, fun _ => ⟨?_, ?_, ?_⟩⟩
    · rw [State.entry_of_trk_eq _ _ gtrk]; exact hentries.1 k
    · rw [gtrk]; exact hentries.2
    · rw [gslot]
      simp only [State.postEvent_slot, State.postEvent_now, State.postEvent_params, hslot, hnow, hparams]
      rfl
    · refine mapReleased_after gmap hext ?_ hhears fun k => by rw [State.entry_of_trk_eq _ _ gtrk]
      rw [State.postEvent_slot, hslot]; rfl
    · refine ⟨v.ring, r', hring, hr', ?_⟩
      have hcount : ((v.postEvent e).endVacating n).orphanCount n = (v.postEvent e).orphanCount n := by
        simp only [State.orphanCount, gtrk]
      rw [hcount]
      rw [State.postEvent_slot, hslot] at hnoticed
      exact hnoticed

/-! ## Expiries in the state that started the timer -/

/-- Time leaves of a slot that is not IDENTIFYING all but the level of its SBDAT, and the tracker and the parameters. -/
theorem State.reach_frame {s : State} {n : SlotId} (m : Nat) (h : (s.slot n).state ≠ .identifying) :
    (∃ low, (s.reach m).slot n = { s.slot n with sbdatLow := low }) ∧ (s.reach m).trk = s.trk ∧
      (s.reach m).params = s.params := by
  obtain ⟨⟨htrk, -, hparams, -, -, -, hslot⟩, -⟩ := s.reach_passesTime m
  exact ⟨⟨_, hslot n h⟩, htrk, hparams⟩

/-- Settles O13, by the four ways into FAULTED. -/
theorem faultsBeforeTraffic : Obligations.FaultsBeforeTraffic := by
  intro s n
  have expires (st : SlotState) (hid : st ≠ .identifying) (c : FaultCause) (hc : c ≠ .lane) (hst : (s.slot n).state = st) :
      ∃ u t, u = s.reach (s.slot n).timer.due ∧
        (.next (s.expiry n st fun s => s.faultSlot n c) : StepResult) = .next t ∧ t.now = u.now ∧
        shutsDown n u t ((u.slot n).faulted c)
          (.faulted n (s.slot n).incarnation (s.slot n).forced 0 c 0) := by
    obtain ⟨⟨low, hslot⟩, -, -⟩ := State.reach_frame (s.slot n).timer.due (hst ▸ hid)
    have h := State.faultSlot_spec (s.reach (s.slot n).timer.due) n c
    rw [State.expiry_of_eq hst]
    refine ⟨_, _, rfl, rfl, by simp, ?_⟩
    simpa only [faultMask, if_neg hc, hslot] using h
  refine ⟨expires _ (by decide) _ (by decide), expires _ (by decide) _ (by decide), fun hst hen hup => ?_, ?_⟩
  · have hdown : s.linkDown n = s.faultSlot n .link := by simp [State.linkDown, Slot.linkCarries, hst, hen, hup]
    exact ⟨s.linkDown n, rfl, by simp [hdown], hdown ▸ State.faultSlot_spec s n .link⟩
  · intro o c mask hcause hst hout
    have hfault : s.probeFault n = s.faultSlot n c ∧ faultMask (s.slot n) c = mask := by
      rcases hcause with ⟨rfl, rfl, rfl⟩ | ⟨rfl, rfl, rfl⟩ | ⟨rfl, rfl, rfl⟩ <;>
        simp [State.probeFault, Slot.probeFault, hst, hout, ProbeOutcome.cause, faultMask]
    obtain ⟨heq, hmask⟩ := hfault
    exact ⟨s.probeFault n, rfl, by simp [heq], heq ▸ hmask ▸ State.faultSlot_spec s n c⟩

/-! ## Drains found complete -/

theorem State.whenDrained_of {s : State} {n : SlotId} {st : SlotState} (hst : (s.slot n).state = st)
    (hin : (s.slot n).ingress = []) (hflight : s.inFlight (.slot n) = 0) (f : State → State) :
    s.whenDrained n st f = f s := by
  simp [State.whenDrained, hst, State.drained_eq_true hin hflight]

/-- Settles O18, by the pending fault. -/
theorem drainEndRetiresOrFaults : Obligations.DrainEndRetiresOrFaults := by
  intro s n hst hin hflight
  have hend : exec (.drainEnd n) s = .next (s.endDrain n) :=
    congrArg Host.Outcome.next (State.whenDrained_of hst hin hflight fun s => s.endDrain n)
  refine ⟨_, hend, State.endDrain_now s n, ?_⟩
  have h := State.endDrain_spec s n
  unfold Slot.drainEnded drainEvent at h
  cases hp : (s.slot n).pendingFault with
  | none => simpa only [hp] using h
  | some p => cases p <;> simpa only [hp] using h

/-! ## Forced ends (R143, R150) -/

/-- The state in which a forced drain end is taken: slot `n` reads `sl`, its entries are rewritten by `f`, and nothing else has
changed but for what the Scrub Engine and the status block hear of it. -/
structure givesUp (n : SlotId) (f : Entry → Entry) (s s' : State) (sl : Slot) : Prop where
  slot : s'.slot n = sl
  others : ∀ m, m ≠ n → s'.slot m = s.slot m
  entries : entriesBecome s s' f
  ext : s'.ext = s.ext
  hears : scrubHears s s' []
  sb : s'.sb = s.sb
  now : s'.now = s.now
  rest : keepsRest s s'
  ring : ringNoticed n s.ring s'.ring

/-- The queue dropped, every entry in flight orphaned and the held answers freed: what a forced drain end is taken on. -/
def State.allDropped (s : State) (n : SlotId) : State :=
  ((((s.modSlot n fun sl => sl.discardWrites.discardReads).orphan n fun _ => true).freeWaiting n).modSlot n fun sl =>
    { sl with forced := true, holdList := [] })

theorem Slot.discardWrites_discardReads_ingress (sl : Slot) : sl.discardWrites.discardReads.ingress = [] := by
  simp only [Slot.discardReads, Slot.discardWrites, List.filter_filter, List.filter_eq_nil_iff]
  intro q _
  cases q.body <;> simp

theorem Slot.queuedWrites_eq (sl : Slot) : sl.queuedWrites = (queuedWritesOf sl.ingress).length :=
  List.countP_eq_length_filter

theorem State.allDropped_spec (s : State) (n : SlotId) :
    givesUp n (fun e => e.allGivenUp n (s.slot n).incarnation) s (s.allDropped n)
      { s.slot n with
        ingress := [], forced := true, holdList := [],
        counters := (s.slot n).counters.addDropped (queuedWritesOf (s.slot n).ingress).length } where
  slot := by
    rw [State.allDropped, State.modSlot_slot_self, State.freeWaiting_slot, State.orphan_slot, State.modSlot_slot_self,
      ← Slot.discardWrites_discardReads_ingress (s.slot n), ← Slot.queuedWrites_eq]
    rfl
  others m hm := by simp [State.allDropped, State.modSlot_slot_of_ne, hm]
  entries := by
    refine ⟨fun k => ?_, ?_⟩
    · simp only [State.allDropped, State.modSlot_entry, State.freeWaiting_entry, State.orphan_entry, State.orphan_slot,
        State.modSlot_slot_self, Entry.allGivenUp_eq, Slot.discardReads, Slot.discardWrites]
    · simp only [State.allDropped, State.modSlot_trk, State.freeWaiting, State.orphan]
  ext := by simp [State.allDropped]
  hears := by
    have h := State.freeWaiting_scrubHears ((s.modSlot n fun sl => sl.discardWrites.discardReads).orphan n fun _ => true) n
    unfold scrubHears at h ⊢
    simp only [State.orphan_entry, State.orphan_scrub, State.modSlot_entry, State.modSlot_scrub, ne_eq,
      Entry.orphaned_free] at h
    simp only [State.allDropped, State.modSlot_entry, State.modSlot_scrub, ne_eq]
    exact h
  sb := by simp [State.allDropped]
  now := by simp [State.allDropped]
  rest := by simp [State.allDropped, keepsRest]
  ring := by
    refine ringNoticed_trans (State.modSlot_ring s n fun sl => sl.discardWrites.discardReads) ?_
    have h := State.modSlot_ring (((s.modSlot n fun sl => sl.discardWrites.discardReads).orphan n fun _ => true).freeWaiting n)
      n fun sl => { sl with forced := true, holdList := [] }
    rwa [State.freeWaiting_ring, State.orphan_ring] at h

/-- Settles O17. -/
theorem drainLimitExpiryForcesTheEnd : Obligations.DrainLimitExpiryForcesTheEnd := by
  intro s n hst
  obtain ⟨⟨low, hu⟩, -, -⟩ := State.reach_frame (s.slot n).timer.due (n := n) (s := s) (by rw [hst]; decide)
  have hexec : exec (.drainLimitExpiry n) s = .next (((s.reach (s.slot n).timer.due).allDropped n).endDrain n) :=
    congrArg Host.Outcome.next (State.expiry_of_eq hst fun s => s.forceDrain n)
  refine ⟨_, _, rfl, hexec, ?_⟩
  generalize s.reach (s.slot n).timer.due = u at hu ⊢
  have hdrop := u.allDropped_spec n
  obtain ⟨hslot, hother, htrk, hmap, hsb, -, ⟨r, hr, hring⟩, hrest⟩ := State.endDrain_spec (u.allDropped n) n
  have hline : ∀ m, ((u.allDropped n).slot m).sbdatLow = (u.slot m).sbdatLow := by
    intro m
    by_cases hm : m = n
    · rw [hm, hdrop.slot]
    · rw [hdrop.others m hm]
  have hjobs : ((u.allDropped n).endDrain n).sb = u.jobsCancelled n := by
    rw [hsb, State.jobsCancelled, hdrop.sb]
    exact State.goesOn_congr hline hdrop.now _
  have hcount : ((u.allDropped n).endDrain n).orphanCount n = (u.allDropped n).orphanCount n := by
    simp only [State.orphanCount, htrk]
  have hshut : ringShut n u r := by
    unfold ringShut at hr ⊢
    rw [hr, ringNoticed_eq hdrop.ring, State.jobsOf, hdrop.sb]
    rfl
  refine ⟨(State.endDrain_now _ n).trans hdrop.now, ?_, fun m hm => (hother m hm).trans (hdrop.others m hm),
    ⟨fun k => ?_, ?_⟩, ?_, hjobs, hjobs ▸ State.noJobs_jobsCancelled u n, hdrop.rest.trans hrest, r, hshut, ?_⟩
  · rw [hslot, hdrop.slot, hu]
    unfold Slot.drainEnded
    cases hp : (s.slot n).pendingFault with
    | none => rfl
    | some p => cases p <;> rfl
  · rw [State.entry_of_trk_eq _ _ htrk, hdrop.entries.1, hu]
  · rw [htrk, hdrop.entries.2]
  · exact mapReleased_after hmap hdrop.ext (by rw [hdrop.slot]) hdrop.hears fun k => by rw [State.entry_of_trk_eq _ _ htrk]
  · rw [hring, hdrop.slot, hcount, hu]
    unfold drainEvent
    cases hp : (s.slot n).pendingFault with
    | none => rfl
    | some p => cases p <;> rfl

end Sys2Proof.Machine
end

section
/-! The end of VACATING, and the expiries and edges that begin a drain under the link-down rules. -/

namespace Sys2Proof.Machine

/-! ## The end of VACATING (R150, R151) -/

/-- What the drain limit makes of an entry of the VACATING slot: its writes in flight are orphaned. -/
def Entry.writesGivenUp (e : Entry) (n : SlotId) (inc : Half) : Entry :=
  if e.who = .slot n ∧ e.incarnation = inc ∧ e.kind = .write ∧ (e.state = .issued ∨ e.state = .late) then
    { e with state := .orphan, held := .none }
  else e

theorem Entry.orphaned_isWrite (e : Entry) (n : SlotId) (inc : Half) :
    e.orphaned n inc isWrite = e.writesGivenUp n inc := by
  unfold Entry.orphaned Entry.writesGivenUp
  have hcond : (e.who = .slot n ∧ e.incarnation = inc ∧ e.state.outstanding = true ∧ isWrite e.kind = true) ↔
      (e.who = .slot n ∧ e.incarnation = inc ∧ e.kind = .write ∧ (e.state = .issued ∨ e.state = .late)) := by
    cases hk : e.kind <;> cases hs : e.state <;> simp [EntryState.outstanding, isWrite]
  simp only [hcond]

/-- The queued writes dropped and those in flight orphaned: what a forced end of VACATING is taken on. -/
def State.writesDropped (s : State) (n : SlotId) : State :=
  ((s.modSlot n fun sl => sl.discardWrites).orphan n isWrite).modSlot n fun sl => { sl with forced := true }

theorem Slot.discardWrites_of_writes {sl : Slot} (h : ∀ q ∈ sl.ingress, ∃ d, q.body = .write d) :
    sl.discardWrites = { sl with ingress := [], counters := sl.counters.addDropped sl.ingress.length } := by
  have hcount : sl.queuedWrites = sl.ingress.length := by
    rw [Slot.queuedWrites, List.countP_eq_length]
    intro q hq
    obtain ⟨d, hd⟩ := h q hq
    simp only [hd]
  have hnone : sl.discardWrites.ingress = [] := by
    rw [Slot.discardWrites, List.filter_eq_nil_iff]
    intro q hq
    obtain ⟨d, hd⟩ := h q hq
    simp only [hd, Bool.false_eq_true, not_false_eq_true]
  rw [← hnone, ← hcount]
  rfl

theorem State.writesDropped_spec (s : State) (n : SlotId) (h : ∀ q ∈ (s.slot n).ingress, ∃ d, q.body = .write d) :
    givesUp n (fun e => e.writesGivenUp n (s.slot n).incarnation) s (s.writesDropped n)
      { s.slot n with
        ingress := [], forced := true, counters := (s.slot n).counters.addDropped (s.slot n).ingress.length } where
  slot := by
    rw [State.writesDropped, State.modSlot_slot_self, State.orphan_slot, State.modSlot_slot_self,
      Slot.discardWrites_of_writes h]
  others m hm := by simp [State.writesDropped, State.modSlot_slot_of_ne, hm]
  entries := by
    refine ⟨fun k => ?_, ?_⟩
    · simp only [State.writesDropped, State.modSlot_entry, State.orphan_entry, State.modSlot_slot_self,
        Entry.orphaned_isWrite, Slot.discardWrites]
    · simp only [State.writesDropped, State.modSlot_trk, State.orphan]
  ext := by simp [State.writesDropped]
  hears := by
    unfold scrubHears
    simp only [State.writesDropped, State.modSlot_entry, State.modSlot_scrub, State.orphan_entry, State.orphan_scrub,
      Entry.orphaned_free, ne_eq, not_true_eq_false, false_or, not_and_self, exists_false, if_false]
  sb := by simp [State.writesDropped]
  now := by simp [State.writesDropped]
  rest := by simp [State.writesDropped, keepsRest]
  ring := by
    refine ringNoticed_trans (State.modSlot_ring s n fun sl => sl.discardWrites) ?_
    have h := State.modSlot_ring ((s.modSlot n fun sl => sl.discardWrites).orphan n isWrite)
      n fun sl => { sl with forced := true }
    rwa [State.orphan_ring] at h

/-- Settles O19: found drained, and forced by the drain limit. -/
theorem vacatingEnds : Obligations.VacatingEnds := by
  intro s n hst
  refine ⟨fun hin hflight => ?_, fun hwrites => ?_⟩
  · have hexec : exec (.vacatingEnd n) s = .next (s.endVacating n) :=
      congrArg Host.Outcome.next (State.whenDrained_of hst hin hflight fun s => s.endVacating n)
    obtain ⟨hslot, hother, htrk, hsb, hmap, hrest, hnow, hring⟩ := State.endVacating_spec s n
    exact ⟨_, hexec, hnow, hslot, hother, htrk, hsb, hmap, hrest, hring⟩
  · obtain ⟨⟨low, hu⟩, -, hparamsu⟩ := State.reach_frame (s.slot n).timer.due (n := n) (s := s) (by rw [hst]; decide)
    have hexec : exec (.vacatingDrainLimitExpiry n) s =
        .next (((s.reach (s.slot n).timer.due).writesDropped n).endVacating n) :=
      congrArg Host.Outcome.next (State.expiry_of_eq hst fun s => s.forceVacating n)
    refine ⟨_, _, rfl, hexec, ?_⟩
    generalize s.reach (s.slot n).timer.due = u at hu hparamsu ⊢
    have hdrop := u.writesDropped_spec n (by rw [hu]; exact hwrites)
    obtain ⟨hslot, hother, htrk, hsb, hmap, hrest, hnow, r, hr, hring⟩ := State.endVacating_spec (u.writesDropped n) n
    have hcount : ((u.writesDropped n).endVacating n).orphanCount n = (u.writesDropped n).orphanCount n := by
      simp only [State.orphanCount, htrk]
    have hparams : (u.writesDropped n).params = u.params := hdrop.rest.2.1
    refine ⟨hnow.trans hdrop.now, ?_, fun m hm => (hother m hm).trans (hdrop.others m hm), ⟨fun k => ?_, ?_⟩,
      hsb.trans hdrop.sb, ?_, hdrop.rest.trans hrest, r, ?_, ?_⟩
    · rw [hslot, hdrop.slot, hdrop.now, hparams, hparamsu, hu]
    · rw [State.entry_of_trk_eq _ _ htrk, hdrop.entries.1, hu]
      rfl
    · rw [htrk, hdrop.entries.2]
    · exact mapReleased_after hmap hdrop.ext (by rw [hdrop.slot]) hdrop.hears fun k => by rw [State.entry_of_trk_eq _ _ htrk]
    · rw [hr, ringNoticed_eq hdrop.ring]
    · rw [hdrop.slot, hu] at hring
      rw [hcount]
      exact hring

/-! ## Drains under the link-down rules -/

/-- Settles O16. -/
theorem graceExpiryRetires : Obligations.GraceExpiryRetires := by
  intro s n hst
  obtain ⟨⟨low, hu⟩, -, hparams⟩ := State.reach_frame (s.slot n).timer.due (n := n) (s := s) (by rw [hst]; decide)
  have hexec : exec (.graceExpiry n) s =
      .next (((s.reach (s.slot n).timer.due).toRetiring n (some .link)).linkDownDrain n) :=
    congrArg Host.Outcome.next (State.expiry_of_eq hst fun s => (s.toRetiring n (some .link)).linkDownDrain n)
  refine ⟨_, _, rfl, hexec, ?_⟩
  generalize s.reach (s.slot n).timer.due = u at hu hparams ⊢
  have h := (endsAs.refl n u).modSlot (f := fun sl => sl.toRetiring (some .link) u.now u.params.drainLimit) rfl rfl rfl rfl
  obtain ⟨hnow, hdrain, hleft⟩ := h.linkDownDrain
  have hring := State.modSlot_ring u n fun sl => sl.toRetiring (some .link) u.now u.params.drainLimit
  refine ⟨hnow, ?_, fun hw => ⟨(hleft hw).1, ?_⟩⟩
  · rw [State.modSlot_slot_self] at hdrain
    rw [← hparams]
    have hcounters : (if (s.slot n).partly.isSome = true then (s.slot n).counters.addTorn else (s.slot n).counters) =
        if ((u.slot n).partly.isSome && SlotState.retiring.countsTorn) = true then (u.slot n).counters.addTorn
        else (u.slot n).counters := by
      simp only [hu, SlotState.countsTorn, Bool.and_true]
    rw [hcounters]
    exact hdrain
  · have h2 := (hleft hw).2
    exact h2 ▸ hring

end Sys2Proof.Machine
end

section
/-! The ejector, PWR_GOOD and the debounce, the ramp and the hold, and the link going down. -/

namespace Sys2Proof.Machine

/-! ## What the link held back -/

theorem Slot.sameCore.linkCarries {a b : Slot} (h : a.sameCore b) : b.linkCarries = a.linkCarries := by
  obtain ⟨-, -, hen, -, hup, -⟩ := h
  rw [Slot.linkCarries, Slot.linkCarries, hen, hup]

@[simp] theorem Slot.regrant_linkCarries (sl : Slot) : sl.regrant.linkCarries = sl.linkCarries :=
  sl.regrant_core.linkCarries

/-- Whether slot `n`'s link carries frames. -/
def State.carries (s : State) (n : SlotId) : Bool := (s.slot n).linkCarries

theorem State.carries_modSlot {s : State} {n : SlotId} {f : Slot → Slot}
    (h : (f (s.slot n)).linkCarries = (s.slot n).linkCarries) : (s.modSlot n f).carries n = s.carries n := by
  rw [State.carries, State.modSlot_slot_self, h, State.carries]

theorem State.violation_carries (s : State) (n : SlotId) (kind h c) : (s.violation n kind h c).carries n = s.carries n := by
  have hcount : (s.modSlot n fun sl => (sl.count Counters.addViolation).regrant).carries n = s.carries n :=
    State.carries_modSlot (Slot.regrant_linkCarries _)
  unfold State.violation
  dsimp only
  split <;> exact hcount

theorem State.admitRead_carries (s : State) (n : SlotId) (f : ReadFrame) : (s.admitRead n f).carries n = s.carries n := by
  unfold State.admitRead
  dsimp only
  split
  · exact State.carries_modSlot (Slot.regrant_linkCarries _)
  split
  · exact State.carries_modSlot (Slot.regrant_linkCarries _)
  split
  · exact State.carries_modSlot (Slot.regrant_linkCarries _)
  split
  · exact (State.violation_carries _ _ _ _ _).trans (State.carries_modSlot rfl)
  · exact State.carries_modSlot (Slot.regrant_linkCarries _)

theorem State.admitWrite_carries (s : State) (n : SlotId) (f : WriteFrame) : (s.admitWrite n f).carries n = s.carries n := by
  unfold State.admitWrite
  dsimp only
  split
  · exact State.carries_modSlot (Slot.regrant_linkCarries _)
  split
  · exact State.carries_modSlot (Slot.regrant_linkCarries _)
  split
  · exact State.violation_carries _ _ _ _ _
  · exact State.carries_modSlot (Slot.regrant_linkCarries _)

theorem State.takeRead_carries (s : State) (n : SlotId) (f : ReadFrame) : (s.takeRead n f).carries n = s.carries n := by
  unfold State.takeRead
  dsimp only
  split
  · rfl
  · exact State.carries_modSlot rfl
  · split <;> exact State.carries_modSlot rfl
  all_goals
    split
    · exact State.carries_modSlot rfl
    · exact State.admitRead_carries _ _ _

theorem State.endWrite_carries (s : State) (n : SlotId) (f : WriteFrame) : (s.endWrite n f).carries n = s.carries n := by
  have hfree : (s.modSlot n fun sl => { sl with partly := none }).carries n = s.carries n := State.carries_modSlot rfl
  unfold State.endWrite
  dsimp only
  split
  · exact (State.carries_modSlot (Slot.examine_probed _ _ _).1.linkCarries).trans hfree
  · exact (State.admitWrite_carries _ _ _).trans hfree

theorem State.takeWrite_carries (s : State) (n : SlotId) (f : WriteFrame) : (s.takeWrite n f).carries n = s.carries n := by
  unfold State.takeWrite
  dsimp only
  split
  · rfl
  · exact State.carries_modSlot rfl
  all_goals
    split
    · exact State.carries_modSlot rfl
    split
    · exact State.endWrite_carries _ _ _
    · split
      · exact State.carries_modSlot rfl
      · exact State.endWrite_carries _ _ _

theorem State.takeStart_carries (s : State) (n : SlotId) (h : FrameHeader) : (s.takeStart n h).carries n = s.carries n := by
  unfold State.takeStart
  dsimp only
  split
  · rfl
  · exact State.carries_modSlot rfl
  all_goals
    split
    · rfl
    split <;> exact State.carries_modSlot rfl

/-- No frame that is taken changes whether the link carries the next. -/
theorem State.takeItem_carries (s : State) (n : SlotId) (i : LinkItem) : (s.takeItem n i).carries n = s.carries n := by
  cases i with
  | start h => exact s.takeStart_carries n h
  | read f => exact s.takeRead_carries n f
  | write f => exact s.takeWrite_carries n f

theorem exec_linkItem {s : State} {n : SlotId} (h : s.carries n = true) (i : LinkItem) :
    exec (i.command n) s = .next (s.takeItem n i) := by
  have hfrom : s.fromLink n i = s.takeItem n i := if_pos h
  cases i <;> exact congrArg Host.Outcome.next hfrom

/-- The frames that a link held back, taken one after another, arrive as by their commands (R64, R65). -/
theorem heldBackArrives_foldl {n : SlotId} (items : List LinkItem) {s : State} (h : s.carries n = true) :
    heldBackArrives n items s (items.foldl (fun s i => s.takeItem n i) s) := by
  induction items generalizing s with
  | nil => rfl
  | cons i items ih => exact ⟨_, exec_linkItem h i, ih ((s.takeItem_carries n i).trans h)⟩

/-- The state at which the frames held back arrive: the intake mode set and every free place granted. -/
def State.opened (s : State) (n : SlotId) (mode : Intake) : State :=
  s.modSlot n fun sl => Slot.regrant { sl with intake := mode, heldBack := [] }

theorem State.reopen_arrives {s : State} {n : SlotId} (mode : Intake) (h : s.carries n = true) :
    heldBackArrives n (s.slot n).heldBack (s.opened n mode) (s.reopen n mode) :=
  have hopened : (s.opened n mode).carries n = s.carries n :=
    State.carries_modSlot (f := fun sl => Slot.regrant { sl with intake := mode, heldBack := [] }) (Slot.regrant_linkCarries _)
  heldBackArrives_foldl _ (hopened.trans h)

/-- In translated and fence intake with the link up, every free place is open. -/
theorem Slot.regrant_of_up {sl : Slot} (hup : sl.linkUp = true) (hin : sl.intake = .translated ∨ sl.intake = .fence) :
    sl.regrant = { sl with placesOpen := sl.freePlaces } := by
  rw [Slot.regrant, if_pos ⟨hup, hin⟩, Slot.freePlaces]

/-! ## A retirement (R20, R77, R133, R139, R164) -/

theorem State.retireSlot_of_traffic {s : State} {n : SlotId} (hst : (s.slot n).state ∈ [.settling, .live, .holding, .held]) :
    s.retireSlot n = if (s.toRetiring n none).drained n = true then (s.toRetiring n none).endDrain n
      else (s.toRetiring n none).reopen n .fence := by
  unfold State.retireSlot
  simp only [List.mem_cons, List.not_mem_nil, or_false] at hst
  rcases hst with h | h | h | h <;> rw [h]

theorem SlotState.countsTorn_of_traffic {st : SlotState} (h : st ∈ [.settling, .live, .holding, .held]) :
    st.countsTorn = true := by
  cases st <;> simp [SlotState.countsTorn] at h ⊢

theorem SlotState.countsTorn_retiring : SlotState.retiring.countsTorn = true := rfl

/-- Before traffic the slot ends at once. -/
theorem State.retireSlot_before_traffic {s : State} {n : SlotId}
    (hst : (s.slot n).state ∈ [.powering, .identifying, .pending, .probing]) :
    (s.retireSlot n).now = s.now ∧
      shutsDown n s (s.retireSlot n) (s.slot n).retired (.retired n (s.slot n).incarnation false 0) := by
  have heq : s.retireSlot n =
      ((s.shutDown n).modSlot n Slot.toRetired).postEvent (.retired n (s.slot n).incarnation false 0) := by
    unfold State.retireSlot
    simp only [List.mem_cons, List.not_mem_nil, or_false] at hst
    rcases hst with h | h | h | h <;> rw [h]
  rw [heq]
  exact ⟨by simp, shutsDown_of s n Slot.toRetired _⟩

/-- With a request queued or in flight the slot goes under the fence, and what the link held back arrives there. -/
theorem State.retireSlot_fenced {s : State} {n : SlotId} (hst : (s.slot n).state ∈ [.settling, .live, .holding, .held])
    (hbusy : (s.slot n).ingress ≠ [] ∨ s.inFlight (.slot n) ≠ 0) (hen : (s.slot n).linkEn = true)
    (hup : (s.slot n).linkUp = true) :
    ∃ u, u.now = s.now ∧
      slotBecomes n s u { s.slot n with
        state := .retiring, resume := none, forced := false, pendingFault := none, intake := .fence,
        placesOpen := (s.slot n).freePlaces, heldBack := [], timer := .running s.now (s.params.drainLimit * 1000) } ∧
      heldBackArrives n (s.slot n).heldBack u (s.retireSlot n) := by
  have hnot : ¬ (s.toRetiring n none).drained n = true := fun hd => by
    obtain ⟨hin, hflight⟩ := State.of_drained hd
    simp only [State.toRetiring, State.modSlot_slot_self, Slot.toRetiring] at hin
    exact hbusy.elim (fun h => h hin) fun h => h ((State.inFlight_eq_zero_iff s n).mpr hflight)
  rw [State.retireSlot_of_traffic hst, if_neg hnot]
  have harrives := State.reopen_arrives (s := s.toRetiring n none) (n := n) .fence (by
    simp [State.toRetiring, State.carries, Slot.toRetiring, Slot.linkCarries, hen, hup])
  have hheld : ((s.toRetiring n none).slot n).heldBack = (s.slot n).heldBack := by
    simp [State.toRetiring, Slot.toRetiring]
  rw [hheld] at harrives
  have hslot := slotBecomes_modSlot_twice n s (fun sl => sl.toRetiring none s.now s.params.drainLimit)
    fun sl => Slot.regrant { sl with intake := .fence, heldBack := [] }
  have hgranted := Slot.regrant_of_up
    (sl := { (s.slot n).toRetiring none s.now s.params.drainLimit with intake := .fence, heldBack := [] }) hup (Or.inr rfl)
  exact ⟨(s.toRetiring n none).opened n .fence, rfl, Eq.subst (motive := slotBecomes n s _) hgranted hslot, harrives⟩

/-- A slot found drained ends at once. -/
theorem State.retireSlot_drained {s : State} {n : SlotId} (hst : (s.slot n).state ∈ [.settling, .live, .holding, .held])
    (hin : (s.slot n).ingress = []) (hflight : s.inFlight (.slot n) = 0) :
    (s.retireSlot n).now = s.now ∧
      shutsDown n s (s.retireSlot n) { (s.slot n).retired with resume := none, forced := false }
        (.retired n (s.slot n).incarnation false (s.orphanCount n)) := by
  have hdrained : (s.toRetiring n none).drained n = true :=
    State.drained_eq_true (by simpa [State.toRetiring, Slot.toRetiring] using hin) hflight
  rw [State.retireSlot_of_traffic hst, if_pos hdrained]
  refine ⟨(State.endDrain_now _ n).trans rfl, ?_⟩
  have h := (State.endDrain_spec (s.toRetiring n none) n).of_endsAs
    ((endsAs.refl n s).modSlot (f := fun sl => sl.toRetiring none s.now s.params.drainLimit) rfl rfl rfl rfl)
  have hslot : ((s.toRetiring n none).slot n).drainEnded = { (s.slot n).retired with resume := none, forced := false } := by
    simp only [State.toRetiring, State.modSlot_slot_self, Slot.toRetiring, Slot.drainEnded, Slot.retired, Slot.shut,
      SlotState.countsTorn_of_traffic hst, SlotState.countsTorn_retiring]
  have hevent : drainEvent n ((s.toRetiring n none).slot n) ((s.toRetiring n none).orphanCount n) =
      .retired n (s.slot n).incarnation false (s.orphanCount n) := by
    simp only [State.toRetiring, State.modSlot_slot_self, Slot.toRetiring, drainEvent]
    rfl
  rw [hslot, hevent] at h
  exact h

/-- A slot in GRACE drains under the link-down rules. -/
theorem State.retireSlot_grace {s : State} {n : SlotId} (hst : (s.slot n).state = .grace) :
    (s.retireSlot n).now = s.now ∧
      drainsLinkDown n s (s.retireSlot n) { (s.slot n).drainOfWrites with
        counters := if (s.slot n).partly.isSome then (s.slot n).counters.addTorn else (s.slot n).counters,
        state := .retiring, resume := none, forced := false, pendingFault := none,
        timer := .running s.now (s.params.drainLimit * 1000) } ∧
      (s.writesLeft n → (s.retireSlot n).sb = s.sb ∧ ringNoticed n s.ring (s.retireSlot n).ring) := by
  have heq : s.retireSlot n = (s.toRetiring n none).linkDownDrain n := by simp only [State.retireSlot, hst]
  have hs := (endsAs.refl n s).modSlot (f := fun sl => sl.toRetiring none s.now s.params.drainLimit) rfl rfl rfl rfl
  obtain ⟨hnow, hdrain, hleft⟩ := hs.linkDownDrain
  have hring := State.modSlot_ring s n fun sl => sl.toRetiring none s.now s.params.drainLimit
  rw [State.modSlot_slot_self] at hdrain
  rw [heq]
  refine ⟨hnow, ?_, fun hw => ⟨(hleft hw).1, ?_⟩⟩
  · have hcounters : (if (s.slot n).partly.isSome = true then (s.slot n).counters.addTorn else (s.slot n).counters) =
        if ((s.slot n).partly.isSome && SlotState.retiring.countsTorn) = true then (s.slot n).counters.addTorn
        else (s.slot n).counters := by
      simp only [SlotState.countsTorn_retiring, Bool.and_true]
    rw [hcounters]
    exact hdrain
  · have hsame := (hleft hw).2
    exact hsame ▸ hring

/-! ## The ejector (R19) -/

theorem State.ejectorEdge_slot (s : State) (n : SlotId) (opened : Bool) :
    (s.ejectorEdge n opened).slot n = { s.slot n with eject := opened, ejectorOpen := opened } := by
  unfold State.ejectorEdge
  dsimp only
  split <;> simp

theorem State.ejectorEdge_frame (s : State) (n : SlotId) (opened : Bool) :
    keepsAllBut n s (s.ejectorEdge n opened) ∧ (s.ejectorEdge n opened).now = s.now := by
  have h := keepsAllBut_modSlot n s fun sl => { sl with eject := opened, ejectorOpen := opened }
  unfold State.ejectorEdge
  dsimp only
  split
  · exact ⟨keepsAllBut_trans h (keepsAllBut_postEvent _ _ _), rfl⟩
  · exact ⟨h, rfl⟩

theorem SlotState.postsEjector_iff (st : SlotState) : st.postsEjector = true ↔ st ≠ .empty ∧ st ≠ .seating := by
  cases st <;> decide

theorem State.ejectorEdge_ring_of_posts {s : State} {n : SlotId} (ha : s.ring.state = .attached)
    (hst : (s.slot n).state.postsEjector = true) (opened : Bool) :
    ∃ r, ringNoticed n s.ring r ∧
      (s.ejectorEdge n opened).ring = r.postEvent (.ejector n (s.slot n).incarnation opened) := by
  refine ⟨_, State.modSlot_ring s n fun sl => { sl with eject := opened, ejectorOpen := opened }, ?_⟩
  simp only [State.ejectorEdge, State.attached_of ha, hst, and_self, if_true]
  rfl

theorem State.ejectorEdge_ring_of_quiet {s : State} {n : SlotId}
    (h : ¬ (s.ring.state = .attached ∧ (s.slot n).state.postsEjector = true)) (opened : Bool) :
    ringNoticed n s.ring (s.ejectorEdge n opened).ring := by
  have hquiet : ¬ (s.attached = true ∧ (s.slot n).state.postsEjector = true) := by
    simpa only [State.attached, decide_eq_true_eq] using h
  simp only [State.ejectorEdge, if_neg hquiet]
  exact State.modSlot_ring s n fun sl => { sl with eject := opened, ejectorOpen := opened }

/-- Settles O6: an edge that does not retire the slot is the edge alone. -/
theorem ejectorEdgesRecordAndPost : Obligations.EjectorEdgesRecordAndPost := by
  intro s n opened hno
  have hexec : exec (if opened then .ejectorOpened n else .ejectorClosed n) s = .next (s.ejectorEdge n opened) := by
    cases opened with
    | false => rfl
    | true =>
      have hcond : ¬ (s.attached = true ∧ s.params.autoRetire = true ∧ (s.slot n).state.autoRetires = true) := by
        rintro ⟨ha, hauto, hst⟩
        refine hno rfl ⟨by simpa [State.attached] using ha, hauto, ?_⟩
        cases h : (s.slot n).state <;> simp [SlotState.autoRetires, SlotState.traffic, h] at hst ⊢
      exact congrArg Host.Outcome.next (if_neg hcond)
  refine ⟨_, hexec, (s.ejectorEdge_frame n opened).2, s.ejectorEdge_slot n opened, (s.ejectorEdge_frame n opened).1, ?_⟩
  have hposts : (s.ring.state = .attached ∧ (s.slot n).state ≠ .empty ∧ (s.slot n).state ≠ .seating) ↔
      (s.ring.state = .attached ∧ (s.slot n).state.postsEjector = true) := by rw [SlotState.postsEjector_iff]
  split
  · rename_i h
    obtain ⟨ha, hst⟩ := hposts.mp h
    exact State.ejectorEdge_ring_of_posts ha hst opened
  · rename_i h
    exact State.ejectorEdge_ring_of_quiet (hposts.not.mp h) opened

/-- The part with the ring as the edge leaves it: what the retirement by an opened ejector starts from. -/
theorem State.ejectorEdge_endsAs {s : State} {n : SlotId} {r : Ring} (h : (s.ejectorEdge n true).ring = r) :
    endsAs n { s with ring := r } (s.ejectorEdge n true) := by
  obtain ⟨⟨hother, hsb, htrk, hext, hscrub, hctl, hparams, hsel, hdrawn, hpending⟩, hnow⟩ := s.ejectorEdge_frame n true
  have hslot := s.ejectorEdge_slot n true
  have hline : ∀ m, ((s.ejectorEdge n true).slot m).sbdatLow = (({ s with ring := r } : State).slot m).sbdatLow := by
    intro m
    by_cases hm : m = n
    · subst hm; rw [hslot]; rfl
    · rw [hother m hm]; rfl
  exact
    { map := by rw [hslot]; rfl
      ingress := by rw [hslot]; rfl
      incarnation := by rw [hslot]; rfl
      others := hother
      trk := htrk
      ext := hext
      scrub := hscrub
      now := hnow
      rest := ⟨hctl, hparams, hsel, hdrawn, hpending⟩
      jobs := by
        rw [State.jobsCancelled, hsb]
        exact State.goesOn_congr hline hnow _
      shut := fun r' hr' => by
        unfold ringShut at hr' ⊢
        rw [hr', h, State.jobsOf, hsb]
        rfl }

theorem State.ejectorOpened_retires {s : State} {n : SlotId} (ha : s.ring.state = .attached)
    (hauto : s.params.autoRetire = true) (hst : (s.slot n).state.autoRetires = true) :
    s.ejectorOpened n = (s.ejectorEdge n true).retireSlot n := by
  simp only [State.ejectorOpened, State.attached_of ha, hauto, hst, and_self, if_true]

/-- Settles O7: the edge, and then the retirement of the slot by its state. -/
theorem ejectorOpenedAutoRetires : Obligations.EjectorOpenedAutoRetires := by
  intro s n ha hauto
  obtain ⟨⟨hother, hsb, htrk, hext, hscrub, hctl, hparams, hsel, hdrawn, hpending⟩, hnow⟩ := s.ejectorEdge_frame n true
  have hframe := (s.ejectorEdge_frame n true).1
  have hslot := s.ejectorEdge_slot n true
  have hflightEq : (s.ejectorEdge n true).inFlight (.slot n) = s.inFlight (.slot n) := by simp only [State.inFlight, htrk]
  have horphans : (s.ejectorEdge n true).orphanCount n = s.orphanCount n := by simp only [State.orphanCount, htrk]
  have retires {t : State} (hst : (s.slot n).state.autoRetires = true) (h : (s.ejectorEdge n true).retireSlot n = t) :
      exec (.ejectorOpened n) s = .next t := by
    rw [← h]
    exact congrArg Host.Outcome.next (State.ejectorOpened_retires ha hauto hst)
  have auto_of_traffic (hst : (s.slot n).state ∈ [.settling, .live, .holding, .held]) :
      (s.slot n).state.autoRetires = true ∧ (s.slot n).state.postsEjector = true := by
    cases h : (s.slot n).state <;> simp [SlotState.autoRetires, SlotState.traffic, SlotState.postsEjector, h] at hst ⊢
  refine ⟨fun hst hbusy hen hup => ?_, fun hst hin hflight => ?_, fun hst => ?_⟩
  · obtain ⟨hauto', hposts⟩ := auto_of_traffic hst
    obtain ⟨q, hq, hring⟩ := State.ejectorEdge_ring_of_posts ha hposts true
    obtain ⟨u, hunow, ⟨huslot, huframe, huring⟩, harrives⟩ := State.retireSlot_fenced (s := s.ejectorEdge n true) (n := n)
      (by rw [hslot]; exact hst) (by rw [hslot, hflightEq]; exact hbusy) (by rw [hslot]; exact hen) (by rw [hslot]; exact hup)
    rw [hslot] at huslot harrives
    rw [hring] at huring
    refine ⟨u, _, retires hauto' rfl, hunow.trans hnow, ?_, keepsAllBut_trans hframe huframe, ⟨q, hq, huring⟩, harrives⟩
    rw [huslot, hnow, hparams]
    rfl
  · obtain ⟨hauto', hposts⟩ := auto_of_traffic hst
    obtain ⟨q, hq, hring⟩ := State.ejectorEdge_ring_of_posts ha hposts true
    obtain ⟨htnow, hshut⟩ := State.retireSlot_drained (s := s.ejectorEdge n true) (n := n)
      (by rw [hslot]; exact hst) (by rw [hslot]; exact hin) (hflightEq.trans hflight)
    rw [hslot, horphans] at hshut
    exact ⟨q, _, retires hauto' rfl, htnow.trans hnow, hq, hshut.of_endsAs (State.ejectorEdge_endsAs hring)⟩
  · obtain ⟨q, hq, hring⟩ := State.ejectorEdge_ring_of_posts ha (by rw [hst]; rfl) true
    obtain ⟨htnow, hdrain, hleft⟩ := State.retireSlot_grace (s := s.ejectorEdge n true) (n := n) (by rw [hslot]; exact hst)
    have hends := State.ejectorEdge_endsAs hring
    rw [hslot, hnow, hparams] at hdrain
    refine ⟨q, _, retires (by rw [hst]; rfl) rfl, htnow.trans hnow, hq, hdrain.of_endsAs hends, fun hw => ?_⟩
    obtain ⟨hsb', hring'⟩ := hleft (hends.writesLeft.mpr hw)
    exact ⟨hsb'.trans hsb, hring ▸ hring'⟩

end Sys2Proof.Machine
end

section
/-! PWR_GOOD and the debounce, the ramp and the hold, and the link going down and up. -/

namespace Sys2Proof.Machine

/-! ## IDENTIFYING entered (R9, R10, R33) -/

/-- An identity job handed over after the slot's record alone has changed, the level of its SBDAT kept. -/
theorem identifies_of {n : SlotId} {s s' : State} {sl : Slot} (h : slotBecomes n s s' sl) (hnow : s'.now = s.now)
    (hlow : sl.sbdatLow = (s.slot n).sbdatLow) :
    identifies n s (s'.handIdentity n) sl ∧ ringNoticed n s.ring (s'.handIdentity n).ring := by
  obtain ⟨hslot, ⟨hother, hsb, htrk, hext, hscrub, hctl, hparams, hsel, hdrawn, hpending⟩, hring⟩ := h
  have hline : ∀ m, (s'.slot m).sbdatLow = (s.slot m).sbdatLow := by
    intro m
    by_cases hm : m = n
    · rw [hm, hslot, hlow]
    · rw [hother m hm]
  refine ⟨⟨by simpa using hslot, fun m hm => by simpa using hother m hm, by simpa using htrk, by simpa using hext,
    by simpa using hscrub, by simpa using hnow, ?_, fun hw => ?_⟩, by simpa using hring⟩
  · simp [keepsRest, hctl, hparams, hsel, hdrawn, hpending]
  · rw [State.handIdentity_sb _ _ (hsb ▸ hw)]
    exact State.identityHanded_congr hsb hnow hline

/-- Settles O8. -/
theorem pwrGoodRiseIdentifies : Obligations.PwrGoodRiseIdentifies := by
  intro s n
  refine ⟨fun ha hst => ⟨s.pwrGoodRise n, rfl, ?_⟩, fun h => ⟨s.pwrGoodRise n, rfl, ?_⟩⟩
  · have hrise : s.pwrGoodRise n = (s.modSlot n fun sl => { sl with pwrGood := true }).identify n := by
      simp only [State.pwrGoodRise, State.attached_of ha, hst, and_self, if_true]
    rw [hrise]
    exact identifies_of (slotBecomes_modSlot_twice n s (fun sl => { sl with pwrGood := true })
      fun sl => { sl with state := .identifying, timer := .stopped }) rfl rfl
  · have hquiet : ¬ (s.attached = true ∧ (s.slot n).state = .powering) := by
      rintro ⟨ha, hst⟩
      exact h.elim (fun h => h (by simpa [State.attached] using ha)) fun h => h hst
    have hrise : s.pwrGoodRise n = s.modSlot n fun sl => { sl with pwrGood := true } := by
      simp only [State.pwrGoodRise, if_neg hquiet]
    rw [hrise]
    exact ⟨rfl, slotBecomes_modSlot n s fun sl => { sl with pwrGood := true }⟩

/-- The entry to POWERING with PWR_GOOD down. -/
theorem State.powerUp_low {s : State} {n : SlotId} (h : (s.slot n).pwrGood = false) :
    s.powerUp n = s.modSlot n fun sl =>
      { sl with
        state := .powering, pwrEn := true, removeOk := false, timer := .running s.now (s.params.powerLimit * 1000) } := by
  simp only [State.powerUp, h, Bool.false_eq_true, if_false]

/-- The entry to POWERING with PWR_GOOD up goes on to IDENTIFYING. -/
theorem State.powerUp_high {s : State} {n : SlotId} (h : (s.slot n).pwrGood = true) :
    s.powerUp n = (s.modSlot n fun sl =>
      { sl with
        state := .powering, pwrEn := true, removeOk := false,
        timer := .running s.now (s.params.powerLimit * 1000) }).identify n := by
  simp only [State.powerUp, h, if_true]

theorem State.powerUp_identifies {s : State} {n : SlotId} (h : (s.slot n).pwrGood = true) :
    identifies n s (s.powerUp n)
        { s.slot n with state := .identifying, pwrEn := true, removeOk := false, timer := .stopped } ∧
      ringNoticed n s.ring (s.powerUp n).ring := by
  rw [State.powerUp_high h]
  exact identifies_of (slotBecomes_modSlot_twice n s
    (fun sl =>
      { sl with
        state := .powering, pwrEn := true, removeOk := false, timer := .running s.now (s.params.powerLimit * 1000) })
    fun sl => { sl with state := .identifying, timer := .stopped }) rfl rfl

/-- Settles O12. -/
theorem debounceExpiryPowers : Obligations.DebounceExpiryPowers := by
  intro s n hst
  obtain ⟨⟨low, hu⟩, -, hparams⟩ := State.reach_frame (s.slot n).timer.due (n := n) (s := s) (by rw [hst]; decide)
  have hexec : exec (.debounceExpiry n) s = .next ((s.reach (s.slot n).timer.due).powerUp n) :=
    congrArg Host.Outcome.next (State.expiry_of_eq hst fun s => s.powerUp n)
  refine ⟨fun hg => ⟨_, _, rfl, hexec, ?_⟩, fun hg => ⟨_, _, rfl, hexec, ?_⟩⟩
  · rw [State.powerUp_low (by rw [hu]; exact hg), hparams]
    exact ⟨rfl, slotBecomes_modSlot n _ fun sl =>
      { sl with
        state := .powering, pwrEn := true, removeOk := false,
        timer := .running (s.reach (s.slot n).timer.due).now (s.params.powerLimit * 1000) }⟩
  · exact State.powerUp_identifies (by rw [hu]; exact hg)

/-! ## The ramp and the hold -/

/-- Settles O14. -/
theorem rampStepRaisesTheCredit : Obligations.RampStepRaisesTheCredit := by
  intro s n hst
  obtain ⟨⟨low, hu⟩, -, hparams⟩ := State.reach_frame (s.slot n).timer.due (n := n) (s := s) (by rw [hst]; decide)
  have hexec : exec (.rampStepExpiry n) s = .next ((s.reach (s.slot n).timer.due).rampStep n) :=
    congrArg Host.Outcome.next (State.expiry_of_eq hst fun s => s.rampStep n)
  refine ⟨_, _, rfl, hexec, ?_⟩
  generalize s.reach (s.slot n).timer.due = u at hu hparams ⊢
  have hcredit : (u.slot n).effCredit = (s.slot n).effCredit := by rw [hu]
  have hcfg : (u.slot n).cfgCredit = (s.slot n).cfgCredit := by rw [hu]
  have hinc : (u.slot n).incarnation = (s.slot n).incarnation := by rw [hu]
  rw [← hcredit, ← hcfg, ← hinc, ← hparams]
  by_cases hfull : (u.slot n).effCredit + 1 = (u.slot n).cfgCredit
  · have hstep : u.rampStep n = u.goLive n ((u.slot n).effCredit + 1) := by
      unfold State.rampStep; exact if_pos hfull
    rw [hstep, if_pos hfull]
    exact ⟨rfl, slotBecomesPosting_of (slotBecomes_modSlot n u fun sl =>
      { sl with state := .live, timer := .stopped, effCredit := (u.slot n).effCredit + 1 }) _⟩
  · have hstep : u.rampStep n = u.modSlot n fun sl =>
        { sl with
          effCredit := (u.slot n).effCredit + 1, timer := .running u.now (u.params.rampStep * 10) } := by
      unfold State.rampStep; exact if_neg hfull
    rw [hstep, if_neg hfull]
    exact ⟨rfl, slotBecomes_modSlot n u fun sl =>
      { sl with effCredit := (u.slot n).effCredit + 1, timer := .running u.now (u.params.rampStep * 10) }⟩

theorem Slot.heldBack_nil {sl : Slot} (h : sl.heldBack = []) : { sl with heldBack := [] } = sl := by
  rw [← h]

theorem State.completeHold_spec (s : State) (n : SlotId) :
    slotBecomesPosting n s (s.completeHold n) { s.slot n with state := .held, timer := .stopped }
      (.held n (s.slot n).incarnation) :=
  slotBecomesPosting_of (slotBecomes_modSlot n s fun sl => { sl with state := .held, timer := .stopped }) _

/-- The record with which a slot is back in LIVE after a hold: the intake translated and every free place granted. -/
def Slot.backToLive (sl : Slot) : Slot :=
  { sl with
    state := .live, timer := .stopped, intake := .translated, placesOpen := sl.freePlaces, heldBack := [] }

/-- A failed hold: the state at which what the link held back arrives, and what comes after it. -/
theorem State.failHold_spec {s : State} {n : SlotId} (hup : (s.slot n).linkUp = true) :
    ∃ v, v.now = s.now ∧ slotBecomes n s v (s.slot n).backToLive ∧
      ((s.slot n).heldBack = [] →
        s.failHold n = v.postEvent (.holdFailed n (s.slot n).incarnation (s.slot n).ingress.length (s.inFlight (.slot n))
          (s.lateCount n))) ∧
      ((s.slot n).linkEn = true → ∃ w, heldBackArrives n (s.slot n).heldBack v w ∧
        s.failHold n = w.postEvent (.holdFailed n (s.slot n).incarnation (s.slot n).ingress.length (s.inFlight (.slot n))
          (s.lateCount n))) := by
  have hslot := slotBecomes_modSlot_twice n s (fun sl => { sl with state := .live, timer := .stopped })
    fun sl => Slot.regrant { sl with intake := .translated, heldBack := [] }
  have hgranted := Slot.regrant_of_up
    (sl := { s.slot n with state := .live, timer := .stopped, intake := .translated, heldBack := [] }) hup (Or.inl rfl)
  refine ⟨(s.modSlot n fun sl => { sl with state := .live, timer := .stopped }).opened n .translated, rfl,
    Eq.subst (motive := slotBecomes n s _) hgranted hslot, fun hnone => ?_, fun hen => ?_⟩
  · unfold State.failHold
    dsimp only
    rw [State.reopen_of_nil (by rw [State.modSlot_slot_self]; exact hnone)]
    rfl
  · have harrives := State.reopen_arrives (s := s.modSlot n fun sl => { sl with state := .live, timer := .stopped }) (n := n)
      .translated (by simp [State.carries, Slot.linkCarries, hen, hup])
    rw [State.modSlot_slot_self] at harrives
    exact ⟨_, harrives, rfl⟩

/-- Settles O15: the drain found complete, and the hold limit with nothing and with frames held back on the link. -/
theorem holdEndsInHeldOrLive : Obligations.HoldEndsInHeldOrLive := by
  intro s n hst
  obtain ⟨⟨low, hu⟩, htrk, -⟩ := State.reach_frame (s.slot n).timer.due (n := n) (s := s) (by rw [hst]; decide)
  have hexec : exec (.holdLimitExpiry n) s = .next ((s.reach (s.slot n).timer.due).failHold n) :=
    congrArg Host.Outcome.next (State.expiry_of_eq hst fun s => s.failHold n)
  refine ⟨fun hin hflight => ?_, fun hup hnone => ⟨_, _, rfl, hexec, ?_⟩, fun hen hup => ?_⟩
  · have hexec' : exec (.holdDrainComplete n) s = .next (s.completeHold n) :=
      congrArg Host.Outcome.next (State.whenDrained_of hst hin hflight fun s => s.completeHold n)
    exact ⟨_, hexec', rfl, s.completeHold_spec n⟩
  all_goals
    generalize s.reach (s.slot n).timer.due = u at hu htrk hexec ⊢
    have hflight : u.inFlight (.slot n) = s.inFlight (.slot n) := by simp only [State.inFlight, htrk]
    have hlate : u.lateCount n = s.lateCount n := by simp only [State.lateCount, htrk]
    obtain ⟨v, hvnow, hv, hquiet, hheld⟩ := State.failHold_spec (s := u) (n := n) (by rw [hu]; exact hup)
    have hpost : Event.holdFailed n (u.slot n).incarnation (u.slot n).ingress.length (u.inFlight (.slot n)) (u.lateCount n) =
        .holdFailed n (s.slot n).incarnation (s.slot n).ingress.length (s.inFlight (.slot n)) (s.lateCount n) := by
      rw [hflight, hlate, hu]
    have hplaces : (u.slot n).freePlaces = (s.slot n).freePlaces := by rw [hu]; rfl
    rw [Slot.backToLive, hplaces] at hv
    rw [hpost] at hquiet hheld
  · have hnone' : (u.slot n).heldBack = [] := by rw [hu]; exact hnone
    rw [hquiet hnone']
    refine ⟨hvnow, slotBecomesPosting_of ?_ _⟩
    rw [Slot.heldBack_nil (sl := { u.slot n with
      state := .live, timer := .stopped, intake := .translated, placesOpen := (s.slot n).freePlaces }) hnone'] at hv
    exact hv
  · obtain ⟨w, harrives, hfail⟩ := hheld (by rw [hu]; exact hen)
    have hitems : (u.slot n).heldBack = (s.slot n).heldBack := by rw [hu]
    rw [hitems] at harrives
    exact ⟨u, v, w, _, rfl, hexec, hvnow, hv, harrives, hfail⟩

end Sys2Proof.Machine
end

section
/-! The link of a slot going down in traffic and in RETIRING, and coming up again (R16, R17, R45, R123, R157, R160, R165). -/

namespace Sys2Proof.Machine

/-! ## Link down -/

/-- A lost link changes no value that the status block shows. -/
theorem Slot.loseLink_shown (sl : Slot) : sl.loseLink.shown = sl.shown := rfl

theorem Slot.loseLink_of_traffic {sl : Slot} (h : sl.state ∈ [.settling, .live, .holding, .held]) :
    sl.loseLink = { sl with
      linkUp := false, placesOpen := 0, partly := none, broken := false, heldBack := [], dataOut := [],
      counters := if sl.partly.isSome then sl.counters.addTorn else sl.counters } := by
  simp only [Slot.loseLink, Slot.discardPartly, SlotState.countsTorn_of_traffic h, Bool.and_true]

/-- A link lost with the loss posted is the loss alone on a ring that holds the event. -/
theorem State.loseLink_postEvent (s : State) (n : SlotId) (e : Event) :
    (s.modSlot n Slot.loseLink).postEvent e = ({ s with ring := s.ring.postEvent e } : State).modSlot n Slot.loseLink := by
  simp only [State.modSlot, State.postEvent]
  rw [if_pos (Slot.loseLink_shown _), if_pos (Slot.loseLink_shown _)]
  rfl

theorem State.linkDown_of_traffic {s : State} {n : SlotId} (hen : (s.slot n).linkEn = true) (hup : (s.slot n).linkUp = true)
    (hst : (s.slot n).state ∈ [.settling, .live, .holding, .held]) :
    s.linkDown n = if s.params.grace = 0 then s.loseLinkForGood n else s.enterGrace n := by
  have hcarries : (s.slot n).linkCarries = true := by simp [Slot.linkCarries, hen, hup]
  unfold State.linkDown
  rw [if_neg (by simp [hcarries])]
  simp only [List.mem_cons, List.not_mem_nil, or_false] at hst
  rcases hst with h | h | h | h <;> rw [h]

/-- Settles O20: with a grace, without one, and in RETIRING. -/
theorem linkDownEntersGrace : Obligations.LinkDownEntersGrace := by
  intro s n hen hup
  refine ⟨fun hst hgrace => ⟨s.linkDown n, rfl, ?_⟩, fun hst hgrace => ?_,
    fun hst => ⟨s.linkDown n, rfl, ?_⟩⟩
  · rw [State.linkDown_of_traffic hen hup hst, if_neg hgrace]
    have h := slotBecomesPosting_of (slotBecomes_modSlot n s fun sl =>
      { sl.loseLink with state := .grace, resume := some (s.slot n).state, timer := .running s.now s.params.grace })
      (.linkLost n (s.slot n).incarnation (s.slot n).state (s.slot n).partly.isSome (s.inFlight (.slot n)))
    rw [Slot.loseLink_of_traffic hst] at h
    exact ⟨rfl, h⟩
  · generalize hq : s.ring.postEvent
      (.linkLost n (s.slot n).incarnation (s.slot n).state (s.slot n).partly.isSome (s.inFlight (.slot n))) = q
    have hdown : s.linkDown n =
        ((({ s with ring := q } : State).modSlot n Slot.loseLink).toRetiring n (some .link)).linkDownDrain n := by
      rw [State.linkDown_of_traffic hen hup hst, if_pos hgrace, ← hq, ← State.loseLink_postEvent]
      rfl
    refine ⟨q, s.linkDown n, rfl, ?_⟩
    rw [hdown]
    have hlost := (endsAs.refl n ({ s with ring := q } : State)).modSlot (f := Slot.loseLink) rfl rfl rfl rfl
    have hends := hlost.modSlot (f := fun sl => sl.toRetiring (some .link) s.now s.params.drainLimit) rfl rfl rfl rfl
    obtain ⟨hnow, hdrain, hleft⟩ := hends.linkDownDrain
    have hring : ringNoticed n q ((({ s with ring := q } : State).modSlot n Slot.loseLink).toRetiring n (some .link)).ring :=
      ringNoticed_trans (State.modSlot_ring { s with ring := q } n Slot.loseLink) (State.modSlot_ring _ n _)
    rw [State.modSlot_slot_self, State.modSlot_slot_self] at hdrain
    refine ⟨hnow, rfl, hdrain, fun hw => ?_⟩
    obtain ⟨hsb, hsame⟩ := hleft hw
    exact ⟨hsb, hsame ▸ hring⟩
  · have hdown : s.linkDown n = s.linkDownDrain n := by simp [State.linkDown, Slot.linkCarries, hst, hen, hup]
    obtain ⟨hdrain, hnow, hleft⟩ := State.linkDownDrain_spec s n
    rw [hdown]
    exact ⟨hnow, hdrain, hleft⟩

/-! ## Link up -/

/-- A frame handed to the link changes no value that the status block shows. -/
theorem State.sendData_ring (s : State) (n : SlotId) (f : DataFrame) : (s.modSlot n fun sl => sl.sendData f).ring = s.ring :=
  State.modSlot_ring_of_shown s n _ rfl

theorem heldFrame_eq (tag : BladeTag) (a : HeldAnswer) : heldFrame tag a = answerFrame tag a := by
  cases a with
  | completion ok data => cases ok <;> rfl
  | timeout => rfl
  | none => rfl

theorem answerFrame_tag (tag : BladeTag) (a : HeldAnswer) : (answerFrame tag a).tag = tag := by
  cases a with
  | completion ok data => cases ok <;> rfl
  | timeout => rfl
  | none => rfl

/-- One held answer handed to the link, by whether its entry is a blade access, and by whether it waits (R123). -/
theorem State.deliverOne_handsOver (s : State) (n : SlotId) (k : MemTag) : handsOver n k s (s.deliverOne n k) := by
  unfold handsOver State.deliverOne
  dsimp only
  cases htag : (s.entry k).tag with
  | blade b =>
    dsimp only
    have hring := State.sendData_ring s n (heldFrame b (s.entry k).held)
    split
    · refine ⟨?_, ?_, fun m hm => ?_, ?_, fun j hj => ?_⟩
      · simp only [State.freeEntry, State.setEntry, State.modSlot_sb, State.modSlot_ext, hring, State.modSlot_trk,
          State.modSlot_scrub, State.modSlot_ctl, State.modSlot_params, State.modSlot_attachSel, State.modSlot_now,
          State.modSlot_drawn, State.modSlot_pending]
      · rw [State.freeEntry_slot, State.modSlot_slot_self, heldFrame_eq]
        simp only [Slot.sendData, answerFrame_tag]
      · rw [State.freeEntry_slot, State.modSlot_slot_of_ne _ _ _ _ hm]
      · rw [State.freeEntry_entry_self]
      · rw [State.freeEntry_entry_of_ne _ _ _ hj, State.modSlot_entry]
    · refine ⟨?_, ?_, fun m hm => ?_, ?_, fun j hj => ?_⟩
      · simp only [State.setEntry, State.modSlot_sb, State.modSlot_ext, hring, State.modSlot_trk,
          State.modSlot_scrub, State.modSlot_ctl, State.modSlot_params, State.modSlot_attachSel, State.modSlot_now,
          State.modSlot_drawn, State.modSlot_pending]
      · rw [State.setEntry_slot, State.modSlot_slot_self, heldFrame_eq]
        simp only [Slot.sendData, answerFrame_tag]
      · rw [State.setEntry_slot, State.modSlot_slot_of_ne _ _ _ _ hm]
      · rw [State.setEntry_entry_self]
      · rw [State.setEntry_entry_of_ne _ _ _ _ hj, State.modSlot_entry]
  | none => rfl
  | control c => rfl
  | trailing f => rfl
  | ring u => rfl
  | scrub x => rfl

theorem State.foldl_deliverOne_handsOverAll (n : SlotId) (ks : List MemTag) (s : State) :
    handsOverAll n ks s (ks.foldl (fun s k => s.deliverOne n k) s) := by
  induction ks generalizing s with
  | nil => rfl
  | cons k ks ih => exact ⟨_, s.deliverOne_handsOver n k, ih _⟩

/-- What handing answers over leaves: the parameters and the moment. -/
theorem State.deliverOne_frame (s : State) (n : SlotId) (k : MemTag) :
    (s.deliverOne n k).params = s.params ∧ (s.deliverOne n k).now = s.now := by
  unfold State.deliverOne
  dsimp only
  split
  · split <;> exact ⟨rfl, rfl⟩
  all_goals exact ⟨rfl, rfl⟩

theorem State.foldl_deliverOne_frame (n : SlotId) (ks : List MemTag) (s : State) :
    (ks.foldl (fun s k => s.deliverOne n k) s).params = s.params ∧
      (ks.foldl (fun s k => s.deliverOne n k) s).now = s.now := by
  induction ks generalizing s with
  | nil => exact ⟨rfl, rfl⟩
  | cons k ks ih =>
    obtain ⟨hparams, hnow⟩ := s.deliverOne_frame n k
    obtain ⟨hparams', hnow'⟩ := ih (s.deliverOne n k)
    exact ⟨hparams'.trans hparams, hnow'.trans hnow⟩

theorem resumeTimer_eq {back : SlotState} (now : Nat) (p : Params) :
    resumeTimer back now p =
      if back = .settling then .running now (p.rampStep * 10)
      else if back = .holding then .running now (p.holdLimit * 1000) else .stopped := by
  cases back <;> rfl

/-- The record of a slot back from GRACE, where `sl` is the record after its held answers were handed over. -/
def Slot.returned (sl : Slot) (back : SlotState) (now : Nat) (p : Params) : Slot :=
  { sl with
    state := back, resume := none, linkUp := true, holdList := [], timer := resumeTimer back now p,
    placesOpen := if sl.intake = .translated then sl.freePlaces else sl.placesOpen }

/-- Translated intake grants every free place, closed intake none. -/
theorem Slot.regrant_returned {sl : Slot} (back : SlotState) (now : Nat) (p : Params)
    (hin : sl.intake = .translated ∨ sl.intake = .closed) :
    Slot.regrant { sl with
      state := back, resume := none, linkUp := true, holdList := [], timer := resumeTimer back now p } =
      sl.returned back now p := by
  unfold Slot.returned
  rcases hin with h | h
  · rw [if_pos h]
    exact Slot.regrant_of_up (sl := { sl with
      state := back, resume := none, linkUp := true, holdList := [], timer := resumeTimer back now p }) rfl (Or.inl h)
  · rw [if_neg (by rw [h]; decide), Slot.regrant, if_neg (by simp [h])]

/-- The event of a return from GRACE. -/
def State.recoveredEvent (s : State) (n : SlotId) (back : SlotState) : Event :=
  .linkRecovered n (s.slot n).incarnation back (s.slot n).holdList.length (s.heldTimeouts n)

/-- The state in which a slot is back from GRACE, before the event. -/
def State.back (s : State) (n : SlotId) (back : SlotState) : State :=
  (s.deliverHeld n).modSlot n fun sl => Slot.regrant
    { sl with state := back, resume := none, linkUp := true, timer := resumeTimer back s.now s.params }

theorem State.recover_eq (s : State) (n : SlotId) (b : SlotState) :
    s.recover n b = if b = .holding then ((s.back n b).postEvent (s.recoveredEvent n b)).settleHolding n
      else (s.back n b).postEvent (s.recoveredEvent n b) := rfl

theorem State.back_spec {s : State} {n : SlotId} (b : SlotState)
    (hin : (s.slot n).intake = .translated ∨ (s.slot n).intake = .closed) :
    slotBecomes n ((s.slot n).holdList.foldl (fun s k => s.deliverOne n k) s) (s.back n b)
      ((((s.slot n).holdList.foldl (fun s k => s.deliverOne n k) s).slot n).returned b s.now s.params) := by
  have hslot := State.foldl_deliverOne_slot n (s.slot n).holdList s
  have h := slotBecomes_modSlot_twice n ((s.slot n).holdList.foldl (fun s k => s.deliverOne n k) s)
    (fun sl => { sl with holdList := [] }) fun sl => Slot.regrant
      { sl with state := b, resume := none, linkUp := true, timer := resumeTimer b s.now s.params }
  have hreturned := Slot.regrant_returned (sl := ((s.slot n).holdList.foldl (fun s k => s.deliverOne n k) s).slot n) b s.now
    s.params (by rw [hslot]; exact hin)
  exact Eq.subst (motive := slotBecomes n _ _) hreturned h

/-- Settles O21: the probe's place, and the return from GRACE, which goes on to HELD where a hold is found drained. -/
theorem linkUpProbesOrRecovers : Obligations.LinkUpProbesOrRecovers := by
  intro s n hen hlow
  refine ⟨fun hst => ⟨s.linkUp n, rfl, ?_⟩, fun b hst hres hback => ?_⟩
  · have hup : s.linkUp n = s.modSlot n fun sl => { sl with linkUp := true, placesOpen := 1 } := by
      simp [State.linkUp, hen, hlow, hst]
    rw [hup]
    exact ⟨rfl, slotBecomes_modSlot n s fun sl => { sl with linkUp := true, placesOpen := 1 }⟩
  · have hin : (s.slot n).intake = .translated ∨ (s.slot n).intake = .closed := hback.imp And.right And.right
    have hup : s.linkUp n = s.recover n b := by simp [State.linkUp, hen, hlow, hst, hres]
    have hspec := State.back_spec (s := s) (n := n) b hin
    have hall := State.foldl_deliverOne_handsOverAll n (s.slot n).holdList s
    have hslot := State.foldl_deliverOne_slot n (s.slot n).holdList s
    have hnow := (State.foldl_deliverOne_frame n (s.slot n).holdList s).2
    refine ⟨_, s.linkUp n, hall, rfl, ?_⟩
    generalize (s.slot n).holdList.foldl (fun s k => s.deliverOne n k) s = u at hspec hslot hnow ⊢
    have hreturned : (u.slot n).returned b s.now s.params = { u.slot n with
        state := b, resume := none, linkUp := true, holdList := [],
        timer :=
          if b = .settling then .running s.now (s.params.rampStep * 10)
          else if b = .holding then .running s.now (s.params.holdLimit * 1000) else .stopped,
        placesOpen := if (s.slot n).intake = .translated then (s.slot n).freePlaces else (s.slot n).placesOpen } := by
      have hintake : (u.slot n).intake = (s.slot n).intake := by rw [hslot]
      have hfree : (u.slot n).freePlaces = (s.slot n).freePlaces := by rw [hslot]; rfl
      have hopen : (u.slot n).placesOpen = (s.slot n).placesOpen := by rw [hslot]
      rw [← hintake, ← hfree, ← hopen, ← resumeTimer_eq]
      rfl
    obtain ⟨hbslot, hbframe, hbring⟩ := hspec
    have hbnow : (s.back n b).now = s.now := (State.foldl_deliverOne_frame n (s.slot n).holdList s).2
    have huin : (u.slot n).ingress = (s.slot n).ingress := by rw [hslot]
    have huinc : (u.slot n).incarnation = (s.slot n).incarnation := by rw [hslot]
    have hevent : Event.linkRecovered n (s.slot n).incarnation b (s.slot n).holdList.length
        ((s.slot n).holdList.countP fun k => (s.entry k).held == .timeout) = s.recoveredEvent n b := rfl
    have hdrained : ((s.back n b).postEvent (s.recoveredEvent n b)).drained n = true ↔
        (s.slot n).ingress = [] ∧ u.inFlight (.slot n) = 0 := by
      have hingress : ((s.back n b).slot n).ingress = (s.slot n).ingress :=
        (congrArg Slot.ingress hbslot).trans huin
      have hflight : ((s.back n b).postEvent (s.recoveredEvent n b)).inFlight (.slot n) = u.inFlight (.slot n) := by
        simp only [State.inFlight, State.postEvent_trk, hbframe.2.2.1]
      simp only [State.drained, State.postEvent_slot, hingress, hflight, Bool.and_eq_true, List.isEmpty_iff, beq_iff_eq]
    have hreturn : slotBecomesPosting n u ((s.back n b).postEvent (s.recoveredEvent n b))
        ((u.slot n).returned b s.now s.params) (s.recoveredEvent n b) :=
      slotBecomesPosting_of ⟨hbslot, hbframe, hbring⟩ _
    rw [hup, State.recover_eq]
    dsimp only
    rw [← hreturned, hevent]
    by_cases hh : b = .holding
    · rw [if_pos hh, State.settleHolding]
      by_cases hd : (s.slot n).ingress = [] ∧ u.inFlight (.slot n) = 0
      · obtain ⟨hcslot, hcframe, r, hr, hcring⟩ :=
          State.completeHold_spec ((s.back n b).postEvent (s.recoveredEvent n b)) n
        have hinc : ((s.back n b).slot n).incarnation = (s.slot n).incarnation :=
          (congrArg Slot.incarnation hbslot).trans huinc
        rw [if_pos (hdrained.mpr hd), if_pos ⟨hh, hd⟩]
        rw [State.postEvent_slot] at hcslot hcring
        rw [hinc] at hcring
        rw [hbslot, hreturned] at hcslot
        exact ⟨hbnow, hcslot, keepsAllBut_trans hreturn.2.1 hcframe, (s.back n b).ring, r, hbring, hr, hcring⟩
      · rw [if_neg (hdrained.not.mpr hd), if_neg fun h => hd h.2]
        exact ⟨hbnow, hreturn⟩
    · rw [if_neg hh, if_neg fun h => hh h.1]
      exact ⟨hbnow, hreturn⟩

end Sys2Proof.Machine
end

section
/-! Frames on a slot's link: those that are queued, those that are refused, and those of the probe (chapters 3 and 4). -/

namespace Sys2Proof.Machine

/-! ## How a frame is taken -/

theorem slotBecomes_modSlot_eq {n : SlotId} {s : State} {f : Slot → Slot} {sl : Slot} (h : f (s.slot n) = sl) :
    slotBecomes n s (s.modSlot n f) sl := h ▸ slotBecomes_modSlot n s f

theorem slotBecomes_modSlot_twice_eq {n : SlotId} {s : State} {f g : Slot → Slot} {sl : Slot} (h : g (f (s.slot n)) = sl) :
    slotBecomes n s ((s.modSlot n f).modSlot n g) sl := h ▸ slotBecomes_modSlot_twice n s f g

theorem State.carries_of {s : State} {n : SlotId} (hen : (s.slot n).linkEn = true) (hup : (s.slot n).linkUp = true) :
    s.carries n = true := by simp [State.carries, Slot.linkCarries, hen, hup]

theorem exec_readFrame {s : State} {n : SlotId} (h : s.carries n = true) (f : ReadFrame) :
    exec (.readFrame n f) s = .next (s.takeRead n f) := exec_linkItem h (.read f)

theorem exec_writeFrame {s : State} {n : SlotId} (h : s.carries n = true) (f : WriteFrame) :
    exec (.writeFrame n f) s = .next (s.takeWrite n f) := exec_linkItem h (.write f)

theorem State.takeRead_eq_admitRead {s : State} {n : SlotId} (hin : (s.slot n).intake ∈ [.translated, .fence])
    (hopen : (s.slot n).placesOpen ≠ 0) (f : ReadFrame) : s.takeRead n f = s.admitRead n f := by
  simp only [List.mem_cons, List.not_mem_nil, or_false] at hin
  rcases hin with h | h <;> simp only [State.takeRead, h, if_neg hopen]

/-- A READ with no place open breaks the flow control (R65). -/
theorem State.takeRead_of_closed {s : State} {n : SlotId} (hin : (s.slot n).intake ∈ [.probe, .translated, .fence])
    (hopen : (s.slot n).placesOpen = 0) (f : ReadFrame) :
    s.takeRead n f = s.modSlot n fun sl => sl.count Counters.addProtocol := by
  simp only [List.mem_cons, List.not_mem_nil, or_false] at hin
  rcases hin with h | h | h <;> simp only [State.takeRead, h, if_pos hopen]

/-- A WRITE that ends with its header known is taken under that header (R66, log 14). -/
theorem State.takeWrite_eq_endWrite {s : State} {n : SlotId} {f : WriteFrame} {h : FrameHeader}
    (hin : (s.slot n).intake ∈ [.probe, .translated, .fence]) (hends : (s.slot n).endsFrame f h) :
    s.takeWrite n f = s.endWrite n { f with head := h } := by
  obtain ⟨hbroken, hhead⟩ := hends
  have hnot : ¬ (s.slot n).broken = true := by simp [hbroken]
  simp only [List.mem_cons, List.not_mem_nil, or_false] at hin
  rcases hhead with hpart | ⟨hpart, hopen, rfl⟩
  · rcases hin with hm | hm | hm <;> simp only [State.takeWrite, hm, if_neg hnot, hpart]
  · rcases hin with hm | hm | hm <;> simp only [State.takeWrite, hm, if_neg hnot, hpart, if_neg hopen]

theorem State.endWrite_eq_admitWrite {s : State} {n : SlotId} (hin : (s.slot n).intake ∈ [.translated, .fence])
    (f : WriteFrame) : s.endWrite n f = (s.modSlot n fun sl => { sl with partly := none }).admitWrite n f := by
  have hnot : (s.slot n).intake ≠ .probe := by
    intro hp
    simp [hp] at hin
  simp only [State.endWrite, if_neg hnot]

theorem headerOk_iff (h : FrameHeader) : headerOk h = true ↔ headerFormed h := by
  simp [headerOk, headerFormed]

theorem writeOk_iff (f : WriteFrame) (h : FrameHeader) : writeOk { f with head := h } = true ↔ writeFormed f h := by
  simp only [writeOk, writeFormed, Bool.and_eq_true, headerOk_iff, decide_eq_true_eq, and_assoc]

/-! ## The five checks (R70) -/

theorem translateCheck_ok {sl : Slot} {kind : AccessKind} {h : FrameHeader} {e : MapEntry} (hpage : sl.withinPage h)
    (hfind : findPage sl.map (bladePage h.addr) = some e) (hrw : kind = .write → e.rw = true) :
    translateCheck sl.map sl.maxBeats kind h = .ok e := by
  obtain ⟨hwin, hbeats, hcross⟩ := hpage
  have hpermits : ¬ (kind = .write ∧ e.rw = false) := fun ⟨hk, hro⟩ => by simp [hrw hk] at hro
  unfold translateCheck bladeOffset
  rw [if_neg (by omega), if_neg (by omega), if_neg (by omega), hfind]
  exact if_neg hpermits

/-- The check that fails first is the cause. -/
theorem translateCheck_refuses {sl : Slot} {kind : AccessKind} {h : FrameHeader} {c : ViolationCause}
    (hc : sl.refuses kind h c) : translateCheck sl.map sl.maxBeats kind h = .error c := by
  unfold translateCheck bladeOffset
  cases c with
  | outOfWindow => exact if_pos hc
  | oversize =>
    obtain ⟨hwin, hbeats⟩ := hc
    rw [if_neg (by omega), if_pos hbeats]
  | boundary =>
    obtain ⟨hwin, hbeats, hcross⟩ := hc
    rw [if_neg (by omega), if_neg (by omega), if_pos hcross]
  | unmapped =>
    obtain ⟨⟨hwin, hbeats, hcross⟩, hfind⟩ := hc
    rw [if_neg (by omega), if_neg (by omega), if_neg (by omega), hfind]
  | readOnly =>
    obtain ⟨hk, ⟨hwin, hbeats, hcross⟩, e, hfind, hro⟩ := hc
    rw [if_neg (by omega), if_neg (by omega), if_neg (by omega), hfind]
    exact if_pos ⟨hk, hro⟩

/-! ## Frames that are queued (R63, R70, R71) -/

/-- A request that joins the queue leaves one place less to grant. -/
theorem Slot.regrant_queued {sl : Slot} (hup : sl.linkUp = true) (hin : sl.intake = .translated) (tags : Vector Bool 16)
    (i : IngressEntry) :
    Slot.regrant { sl with tags := tags, ingress := sl.ingress ++ [i] } =
      { sl with tags := tags, ingress := sl.ingress ++ [i], placesOpen := sl.freePlaces - 1 } := by
  have hplaces : ({ sl with tags := tags, ingress := sl.ingress ++ [i] } : Slot).freePlaces = sl.freePlaces - 1 := by
    simp only [Slot.freePlaces, Slot.partlyPlaces, List.length_append, List.length_singleton]
    omega
  rw [Slot.regrant_of_up (sl := { sl with tags := tags, ingress := sl.ingress ++ [i] }) hup (Or.inl hin), hplaces]

/-- Settles O22: a READ, and a WRITE under the header of its start or its own. -/
theorem translatedFramesAreQueued : Obligations.TranslatedFramesAreQueued := by
  intro s n hen hup hin
  have hcarries := State.carries_of hen hup
  refine ⟨fun f e hopen htag hform hpage hfind => ⟨_, exec_readFrame hcarries f, ?_⟩,
    fun f h e hends hform hpage hfind hrw => ⟨_, exec_writeFrame hcarries f, ?_⟩⟩
  · have hcheck := translateCheck_ok (kind := .read) hpage hfind (by simp)
    have htake : s.takeRead n f = s.modSlot n fun sl => Slot.regrant
        { sl with
          tags := sl.tags.set f.tag.val true f.tag.isLt
          ingress := sl.ingress ++ [⟨translate s.ext.base e f.head, f.head.beats, .read f.tag⟩] } := by
      rw [State.takeRead_eq_admitRead (by simp [hin]) hopen]
      simp only [State.admitRead, (headerOk_iff _).mpr hform, htag, hin, hcheck, Bool.true_eq_false, Bool.false_eq_true,
        if_false, reduceCtorEq]
    rw [htake]
    exact ⟨rfl, slotBecomes_modSlot_eq (Slot.regrant_queued hup hin _ _)⟩
  · have hcheck := translateCheck_ok (kind := .write) hpage hfind fun _ => hrw
    have htake : s.takeWrite n f = (s.modSlot n fun sl => { sl with partly := none }).modSlot n fun sl => Slot.regrant
        { sl with ingress := sl.ingress ++ [⟨translate s.ext.base e h, h.beats, .write f.data⟩] } := by
      rw [State.takeWrite_eq_endWrite (by simp [hin]) hends, State.endWrite_eq_admitWrite (by simp [hin])]
      simp only [State.admitWrite, (writeOk_iff f h).mpr hform, State.modSlot_slot_self, hin, hcheck, Bool.true_eq_false,
        if_false, reduceCtorEq, State.modSlot_ext]
    rw [htake]
    refine ⟨rfl, slotBecomes_modSlot_twice_eq ?_⟩
    refine (Slot.regrant_queued (sl := { s.slot n with partly := none }) hup hin (s.slot n).tags _).trans ?_
    have hplaces : ({ s.slot n with partly := none } : Slot).freePlaces - 1 = 8 - ((s.slot n).ingress.length + 1) := by
      simp only [Slot.freePlaces, Slot.partlyPlaces, Option.isSome_none, Bool.false_eq_true, if_false]
      omega
    rw [hplaces]
    rfl

/-! ## Frames that are refused (R61, R65, R68, R72, R76) -/

theorem vector_set_of_get {α : Type} {k : Nat} {v : Vector α k} {i : Fin k} {a : α} (h : v.get i = a) :
    v.set i.val a i.isLt = v := by
  subst h
  exact Vector.set_getElem_self i.isLt

/-- A refusal at a place that the frame holds: counted, its place granted again, and posted when it is the first (R72). -/
theorem State.violation_spec {s s' : State} {n : SlotId} {kind : AccessKind} {h : FrameHeader} {c : ViolationCause}
    (hframe : keepsAllBut n s s') (hring : s'.ring = s.ring) (hcount : (s'.slot n).counters = (s.slot n).counters)
    (hinc : (s'.slot n).incarnation = (s.slot n).incarnation) (hup : (s'.slot n).linkUp = true)
    (hin : (s'.slot n).intake = .translated) :
    (s'.violation n kind h c).slot n =
        { s'.slot n with placesOpen := (s'.slot n).freePlaces, counters := (s.slot n).counters.addViolation } ∧
      keepsAllBut n s (s'.violation n kind h c) ∧ (s'.violation n kind h c).ring = violationPosted n s kind h c := by
  have hslot : ((s'.slot n).count Counters.addViolation).regrant =
      { s'.slot n with placesOpen := (s'.slot n).freePlaces, counters := (s.slot n).counters.addViolation } := by
    refine (Slot.regrant_of_up (sl := (s'.slot n).count Counters.addViolation) hup (Or.inl hin)).trans ?_
    rw [← hcount]
    rfl
  have hcounted : (s'.modSlot n fun sl => (sl.count Counters.addViolation).regrant).ring = s.ring := by
    rw [State.modSlot_ring_of_shown, hring]
    rw [hslot]
    rfl
  have hkeeps : keepsAllBut n s (s'.modSlot n fun sl => (sl.count Counters.addViolation).regrant) :=
    keepsAllBut_trans hframe (keepsAllBut_modSlot n s' _)
  have hpage : violationPage c h = if c = .outOfWindow then none else some (bladePage h.addr) := by cases c <;> rfl
  have hcounter : (s'.slot n).counters.violation = (s.slot n).counters.violation := by rw [hcount]
  have hslot' := (State.modSlot_slot_self s' n fun sl => (sl.count Counters.addViolation).regrant).trans hslot
  unfold State.violation violationPosted
  dsimp only
  by_cases hfirst : (s.slot n).counters.violation = 0
  · rw [if_pos (hcounter.trans hfirst), if_pos hfirst]
    refine ⟨hslot', keepsAllBut_trans hkeeps (keepsAllBut_postEvent n _ _), ?_⟩
    rw [State.postEvent, hcounted, hinc, hpage]
  · rw [if_neg (hcounter ▸ hfirst), if_neg hfirst]
    exact ⟨hslot', hkeeps, hcounted⟩

/-- A frame counted at the place that it held, which is granted again. -/
theorem Slot.count_regrant {sl : Slot} (hup : sl.linkUp = true) (hin : sl.intake ∈ [.translated, .fence])
    (g : Counters → Counters) :
    (sl.count g).regrant = { sl with placesOpen := sl.freePlaces, counters := g sl.counters } := by
  simp only [List.mem_cons, List.not_mem_nil, or_false] at hin
  exact Slot.regrant_of_up (sl := sl.count g) hup hin

/-- A WRITE that held a place and is counted and discarded. -/
theorem Slot.discarded_regrant {sl : Slot} (hup : sl.linkUp = true) (hin : sl.intake ∈ [.translated, .fence])
    (g : Counters → Counters) :
    (({ sl with partly := none } : Slot).count g).regrant =
      { sl with partly := none, placesOpen := 8 - sl.ingress.length, counters := g sl.counters } :=
  Slot.count_regrant (sl := { sl with partly := none }) hup hin g

/-- Settles O23, in the order of the statement: the checks of R70, the fence, malformed frames, and flow control broken. -/
theorem refusedFramesAreAnsweredAndCounted : Obligations.RefusedFramesAreAnsweredAndCounted := by
  intro s n hen hup
  have hcarries := State.carries_of hen hup
  refine ⟨fun f c st hstatus hin hopen htag hform hc => ⟨_, exec_readFrame hcarries f, ?_⟩,
    fun f h c hin hends hform hc => ⟨_, exec_writeFrame hcarries f, ?_⟩,
    fun f hin hopen htag hform => ⟨_, exec_readFrame hcarries f, ?_⟩,
    fun f h hin hends hform => ⟨_, exec_writeFrame hcarries f, ?_⟩,
    fun f hin hopen hbad => ⟨_, exec_readFrame hcarries f, ?_⟩,
    fun f h hin hends hbad => ⟨_, exec_writeFrame hcarries f, ?_⟩,
    fun f hin hopen => ⟨_, exec_readFrame hcarries f, ?_⟩,
    fun f hin hbad => ⟨_, exec_writeFrame hcarries f, ?_⟩⟩
  · have htake : s.takeRead n f =
        (s.modSlot n fun sl => sl.sendData ⟨f.tag, c.status, []⟩).violation n .read f.head c := by
      rw [State.takeRead_eq_admitRead (by simp [hin]) hopen]
      simp only [State.admitRead, (headerOk_iff _).mpr hform, htag, hin, translateCheck_refuses hc, Bool.true_eq_false,
        Bool.false_eq_true, if_false, reduceCtorEq]
    have hst : c.status = st := by
      rcases hstatus with ⟨rfl, rfl⟩ | ⟨rfl, rfl⟩ | ⟨rfl, rfl⟩ | ⟨rfl, rfl⟩ <;> rfl
    obtain ⟨hslot, hframe, hring⟩ := State.violation_spec (s := s)
      (s' := s.modSlot n fun sl => sl.sendData ⟨f.tag, c.status, []⟩) (n := n) (kind := .read) (h := f.head) (c := c)
      (keepsAllBut_modSlot n s _) (State.sendData_ring s n _) (by rw [State.modSlot_slot_self]; rfl)
      (by rw [State.modSlot_slot_self]; rfl) (by rw [State.modSlot_slot_self]; exact hup)
      (by rw [State.modSlot_slot_self]; exact hin)
    rw [htake]
    refine ⟨by simp [State.violation]; split <;> rfl, ?_, hframe, hring⟩
    rw [hslot, State.modSlot_slot_self, hst]
    simp only [Slot.sendData, vector_set_of_get htag]
    rfl
  · have htake : s.takeWrite n f = (s.modSlot n fun sl => { sl with partly := none }).violation n .write h c := by
      rw [State.takeWrite_eq_endWrite (by simp [hin]) hends, State.endWrite_eq_admitWrite (by simp [hin])]
      simp only [State.admitWrite, (writeOk_iff f h).mpr hform, State.modSlot_slot_self, hin, translateCheck_refuses hc,
        Bool.true_eq_false, if_false, reduceCtorEq]
    obtain ⟨hslot, hframe, hring⟩ := State.violation_spec (s := s)
      (s' := s.modSlot n fun sl => { sl with partly := none }) (n := n) (kind := .write) (h := h) (c := c)
      (keepsAllBut_modSlot n s _) (State.modSlot_ring_of_shown s n _ rfl) (by rw [State.modSlot_slot_self])
      (by rw [State.modSlot_slot_self]) (by rw [State.modSlot_slot_self]; exact hup)
      (by rw [State.modSlot_slot_self]; exact hin)
    rw [htake]
    refine ⟨by simp [State.violation]; split <;> rfl, ?_, hframe, hring⟩
    rw [hslot, State.modSlot_slot_self]
    rfl
  · have htake : s.takeRead n f = s.modSlot n fun sl =>
        ((sl.sendData ⟨f.tag, .retired, []⟩).count Counters.addFenced).regrant := by
      rw [State.takeRead_eq_admitRead (by simp [hin]) hopen]
      simp only [State.admitRead, (headerOk_iff _).mpr hform, htag, hin, Bool.true_eq_false, Bool.false_eq_true, if_false,
        if_true]
    rw [htake]
    refine ⟨rfl, slotBecomes_modSlot_eq ?_⟩
    refine (Slot.count_regrant (sl := (s.slot n).sendData ⟨f.tag, .retired, []⟩) hup (by simp [Slot.sendData, hin]) _).trans ?_
    simp only [Slot.sendData, vector_set_of_get htag]
    rfl
  · have htake : s.takeWrite n f = (s.modSlot n fun sl => { sl with partly := none }).modSlot n fun sl =>
        (sl.count Counters.addFenced).regrant := by
      rw [State.takeWrite_eq_endWrite (by simp [hin]) hends, State.endWrite_eq_admitWrite (by simp [hin])]
      simp only [State.admitWrite, (writeOk_iff f h).mpr hform, State.modSlot_slot_self, hin, Bool.true_eq_false, if_false,
        if_true]
    rw [htake]
    exact ⟨rfl, slotBecomes_modSlot_twice_eq (Slot.discarded_regrant hup (by simp [hin]) _)⟩
  · have htake : s.takeRead n f = s.modSlot n Slot.protocolError := by
      rw [State.takeRead_eq_admitRead hin hopen]
      unfold State.admitRead
      dsimp only
      rcases hbad with hform | htag
      · rw [if_pos (by rw [← Bool.not_eq_true, headerOk_iff]; exact hform)]
      · rw [if_pos htag, ite_self]
    rw [htake]
    exact ⟨rfl, slotBecomes_modSlot_eq (Slot.count_regrant hup hin _)⟩
  · have hin' : (s.slot n).intake ∈ [.probe, .translated, .fence] := List.mem_cons_of_mem _ hin
    have htake : s.takeWrite n f = (s.modSlot n fun sl => { sl with partly := none }).modSlot n Slot.protocolError := by
      rw [State.takeWrite_eq_endWrite hin' hends, State.endWrite_eq_admitWrite hin]
      unfold State.admitWrite
      dsimp only
      rw [if_pos (by rw [← Bool.not_eq_true, writeOk_iff]; exact hbad)]
    rw [htake]
    exact ⟨rfl, slotBecomes_modSlot_twice_eq (Slot.discarded_regrant hup hin _)⟩
  · rw [State.takeRead_of_closed hin hopen]
    exact ⟨rfl, slotBecomes_modSlot n s fun sl => sl.count Counters.addProtocol⟩
  · simp only [List.mem_cons, List.not_mem_nil, or_false] at hin
    rcases hbad with hbroken | ⟨hbroken, hpart, hopen⟩
    · have htake : s.takeWrite n f = s.modSlot n fun sl => { sl.count Counters.addProtocol with broken := false } := by
        rcases hin with h | h | h <;> simp only [State.takeWrite, h, if_pos hbroken]
      rw [htake]
      exact ⟨rfl, slotBecomes_modSlot n s fun sl => { sl.count Counters.addProtocol with broken := false }⟩
    · have htake : s.takeWrite n f = s.modSlot n fun sl => sl.count Counters.addProtocol := by
        have hnot : ¬ (s.slot n).broken = true := by simp [hbroken]
        rcases hin with h | h | h <;> simp only [State.takeWrite, h, if_neg hnot, hpart, if_pos hopen]
      rw [htake]
      refine ⟨rfl, slotBecomes_modSlot_eq ?_⟩
      rw [← hbroken]
      rfl

/-- Settles O24. -/
theorem frameStartUsesAPlace : Obligations.FrameStartUsesAPlace := by
  intro s n h hen hup hin hpart hbroken
  have htake : s.takeStart n h = if (s.slot n).placesOpen = 0 then s.modSlot n fun sl => { sl with broken := true }
      else s.modSlot n fun sl => { sl with placesOpen := sl.placesOpen - 1, partly := some h } := by
    have hfree : ¬ ((s.slot n).partly.isSome = true ∨ (s.slot n).broken = true) := by simp [hpart, hbroken]
    simp only [List.mem_cons, List.not_mem_nil, or_false] at hin
    rcases hin with hm | hm | hm <;> simp only [State.takeStart, hm, if_neg hfree]
  refine ⟨_, exec_linkItem (State.carries_of hen hup) (.start h), ?_⟩
  have hitem : s.takeItem n (.start h) = s.takeStart n h := rfl
  rw [hitem, htake]
  split
  · exact ⟨rfl, slotBecomes_modSlot n s fun sl => { sl with broken := true }⟩
  · exact ⟨rfl, slotBecomes_modSlot n s fun sl => { sl with placesOpen := sl.placesOpen - 1, partly := some h }⟩

end Sys2Proof.Machine
end

section
/-! The frames of the probe and its outcome (R13, R46 to R50, R55). -/

namespace Sys2Proof.Machine

/-! ## The probe checker (R46 to R50) -/

theorem probeCandidate_eq_some {f : WriteFrame} {v : Beat} :
    probeCandidate f = some v ↔ f.parsed = true ∧ f.head.addr = 0 ∧ f.head.beats = 1 ∧ f.data = [⟨0xFF, v⟩] := by
  unfold probeCandidate
  constructor
  · intro h
    split at h
    · rename_i b hparsed hdata
      split at h
      · rename_i hcond
        obtain ⟨haddr, hbeats, hmask⟩ := hcond
        obtain rfl := Option.some.inj h
        exact ⟨hparsed, haddr, hbeats, by rw [hdata, ← hmask]⟩
      · exact absurd h (by simp)
    · exact absurd h (by simp)
  · rintro ⟨hparsed, haddr, hbeats, hdata⟩
    simp [hparsed, hdata, haddr, hbeats]

theorem probeCandidate_eq_none {f : WriteFrame}
    (h : ¬ (f.parsed = true ∧ f.head.addr = 0 ∧ f.head.beats = 1 ∧ ∃ v, f.data = [⟨0xFF, v⟩])) : probeCandidate f = none := by
  rw [Option.eq_none_iff_forall_ne_some]
  intro v hv
  obtain ⟨hparsed, haddr, hbeats, hdata⟩ := probeCandidate_eq_some.mp hv
  exact h ⟨hparsed, haddr, hbeats, v, hdata⟩

/-- What a candidate makes of a slot whose frame has ended, by the progress reached (R47, R48). -/
theorem Slot.examine_some {sl : Slot} (limit : Nat) (v : Beat) (h : sl.progress ≤ 2) :
    Slot.examine { sl with partly := none } limit (some v) =
      match sl.progress with
      | 0 =>
        if v = 0xFFFFFFFFFFFFFFFF then { sl with partly := none, progress := 1, placesOpen := 1 }
        else { sl with
          partly := none, laneMask := v ^^^ 0xFFFFFFFFFFFFFFFF, outcome := some .laneMismatch, placesOpen := 0 }
      | 1 =>
        if v = 0 then { sl with partly := none, progress := 2, placesOpen := 1 }
        else { sl with partly := none, laneMask := v, outcome := some .laneMismatch, placesOpen := 0 }
      | _ =>
        { sl with
          partly := none, placesOpen := 0,
          outcome := some (if v = sl.identity[3] ++ sl.identity[4] ++ sl.identity[5] ++ sl.identity[6]
            then .keyAccepted else .wrongKey) } := by
  have hones : BitVec.allOnes 64 = 0xFFFFFFFFFFFFFFFF := by decide
  have hprogress : sl.progress = 0 ∨ sl.progress = 1 ∨ sl.progress = 2 := by omega
  rcases hprogress with hp | hp | hp
  · simp only [Slot.examine, Slot.comparePattern, hp, if_true, hones]
  · have hzero : v ^^^ 0 = v := BitVec.xor_zero
    simp only [Slot.examine, Slot.comparePattern, hp, Nat.one_ne_zero, if_false, if_true, hzero, Nat.reduceAdd]
  · simp only [Slot.examine, Slot.compareKey, hp, OfNat.ofNat_ne_zero, OfNat.ofNat_ne_one, if_false, probeKey]
    rfl

theorem State.takeWrite_of_probe {s : State} {n : SlotId} {f : WriteFrame} {h : FrameHeader}
    (hin : (s.slot n).intake = .probe) (hends : (s.slot n).endsFrame f h) :
    s.takeWrite n f = (s.modSlot n fun sl => { sl with partly := none }).modSlot n fun sl =>
      sl.examine s.params.glitchLimit (probeCandidate { f with head := h }) := by
  rw [State.takeWrite_eq_endWrite (by simp [hin]) hends]
  simp only [State.endWrite, if_pos hin]

/-- Settles O25: a candidate, and the glitches by READ and by WRITE. -/
theorem probeCandidatesAreCompared : Obligations.ProbeCandidatesAreCompared := by
  intro s n hen hup hin hprogress hout
  have hcarries := State.carries_of hen hup
  refine ⟨fun f v hends hparsed hdata => ⟨_, exec_writeFrame hcarries f, ?_⟩, fun c hc => ?_⟩
  · have hcandidate : probeCandidate { f with head := ⟨0, 1⟩ } = some v :=
      probeCandidate_eq_some.mpr ⟨hparsed, rfl, rfl, hdata⟩
    rw [State.takeWrite_of_probe hin hends, hcandidate]
    refine ⟨rfl, slotBecomes_modSlot_twice_eq ?_⟩
    exact Slot.examine_some s.params.glitchLimit v hprogress
  · rcases hc with ⟨f, rfl, hopen, hpart⟩ | ⟨f, h, rfl, hends, hnot⟩
    · have htake : s.takeRead n f = s.modSlot n fun sl => sl.glitch s.params.glitchLimit := by
        simp only [State.takeRead, hin, if_neg hopen]
      refine ⟨_, exec_readFrame hcarries f, ?_⟩
      rw [htake]
      exact ⟨rfl, slotBecomes_modSlot n s fun sl => sl.glitch s.params.glitchLimit⟩
    · refine ⟨_, exec_writeFrame hcarries f, ?_⟩
      rw [State.takeWrite_of_probe hin hends, probeCandidate_eq_none hnot]
      exact ⟨rfl, slotBecomes_modSlot_twice n s (fun sl => { sl with partly := none })
        fun sl => sl.glitch s.params.glitchLimit⟩

/-! ## The key accepted (R14, R55) -/

/-- Settles O26: LIVE at once, and the ramp. -/
theorem keyAcceptedSettles : Obligations.KeyAcceptedSettles := by
  intro s n hst hout hup hingress hpart
  have hopened : Slot.regrant { s.slot n with
        state := .settling, effCredit := 1, intake := .translated, outcome := none,
        timer := .running s.now (s.params.rampStep * 10) } =
      { s.slot n with
        state := .settling, effCredit := 1, intake := .translated, placesOpen := 8, outcome := none,
        timer := .running s.now (s.params.rampStep * 10) } := by
    refine (Slot.regrant_of_up (sl := { s.slot n with
        state := .settling, effCredit := 1, intake := .translated, outcome := none,
        timer := .running s.now (s.params.rampStep * 10) }) hup (Or.inl rfl)).trans ?_
    simp only [Slot.freePlaces, Slot.partlyPlaces, hingress, hpart, List.length_nil, Option.isSome_none,
      Bool.false_eq_true, if_false, Nat.sub_zero]
  have hkey : s.keyAccepted n = s.settle n := if_pos ⟨hst, hout⟩
  refine ⟨s.keyAccepted n, rfl, ?_⟩
  rw [hkey]
  unfold State.settle
  dsimp only
  by_cases hlive : (s.slot n).cfgCredit = 1 ∨ s.params.rampStep = 0
  · rw [if_pos hlive, if_pos hlive]
    refine ⟨rfl, ?_⟩
    unfold State.goLive
    simp only [State.modSlot_slot_self]
    have hinc : ∀ sl : Slot, sl.regrant.incarnation = sl.incarnation := fun sl => sl.regrant_core.1.2.2.2.2.2.1
    rw [hinc]
    refine slotBecomesPosting_of (slotBecomes_modSlot_twice_eq ?_) _
    rw [hopened]
  · rw [if_neg hlive, if_neg hlive]
    exact ⟨rfl, slotBecomes_modSlot_eq hopened⟩

end Sys2Proof.Machine
end

section
/-! Grants: the decision, the head that each participant gives up, and the requests that none takes (R100 to R114, R178). -/

namespace Sys2Proof.Machine

/-! ## The decision (R110 to R112) -/

theorem State.reach_elapsed (s : State) (k : Nat) : s.reach (s.now + k) = s.elapse k := by
  rw [State.reach, Nat.add_sub_cancel_left]

theorem exec_grant {before s : State} {elapsed : Nat} (h : s = before.reach (before.now + elapsed)) :
    exec (.grant elapsed) before = .next s.decideGrant := by
  rw [h, State.reach_elapsed]
  rfl

theorem State.decideGrant_of {s : State} {k : MemTag} {p : Participant} (hk : s.lowestFree k) (hp : s.grantsNext p) :
    s.decideGrant = s.grantTo k p := by
  simp only [State.decideGrant, State.freeTag_of_lowestFree hk, State.find_of_grantsNext hp]

/-- Settles O28: no FREE entry, and no eligible participant. -/
theorem noGrantWithoutAFreeEntry : Obligations.NoGrantWithoutAFreeEntry := by
  intro before s elapsed hs hnone
  have hstay : s.decideGrant = s := by
    unfold State.decideGrant
    rcases hnone with hfree | hgo
    · rw [State.freeTag_eq_none hfree]
    · rw [State.find_eq_none hgo]
      cases s.freeTag <;> rfl
  rw [exec_grant hs, hstay]

/-! ## The head of a slot (R74, R114) -/

/-- A slot's queue without its head, and the place of that head granted again. -/
def State.slotHeadTaken (s : State) (n : SlotId) (rest : List IngressEntry) : State :=
  s.modSlot n fun sl => Slot.regrant { sl with ingress := rest }

theorem State.slotHeadTaken_ring (s : State) (n : SlotId) (rest : List IngressEntry) :
    (s.slotHeadTaken n rest).ring = s.ring := by
  refine State.modSlot_ring_of_shown s n _ ?_
  unfold Slot.regrant
  split <;> rfl

theorem State.slotHeadTaken_slot (s : State) (n : SlotId) (rest : List IngressEntry) :
    (s.slotHeadTaken n rest).slot n = { s.slot n with
      ingress := rest,
      placesOpen :=
        if (s.slot n).linkUp = true ∧ ((s.slot n).intake = .translated ∨ (s.slot n).intake = .fence) then
          8 - rest.length - (s.slot n).partlyPlaces
        else (s.slot n).placesOpen } := by
  rw [State.slotHeadTaken, State.modSlot_slot_self]
  by_cases h : (s.slot n).linkUp = true ∧ ((s.slot n).intake = .translated ∨ (s.slot n).intake = .fence)
  · rw [if_pos h]
    exact if_pos h
  · rw [if_neg h]
    exact if_neg h

/-- The grant of a slot's head: everything but the entry and the request on the link is that of the queue without it. -/
theorem State.grantSlot_spec {s : State} {k : MemTag} {n : SlotId} {q : IngressEntry} {rest : List IngressEntry}
    (h : (s.slot n).ingress = q :: rest) :
    ∃ kind tag data, s.grantSlot k n =
        (s.slotHeadTaken n rest).issue k (.slot n) (s.slot n).incarnation kind tag q.addr q.beats data ∧
      (match q.body with
        | .read b => kind = .read ∧ tag = .blade b ∧ data = []
        | .write d => kind = .write ∧ tag = .none ∧ data = d) := by
  simp only [State.grantSlot, h]
  cases q.body with
  | read b => exact ⟨_, _, _, rfl, rfl, rfl, rfl⟩
  | write d => exact ⟨_, _, _, rfl, rfl, rfl, rfl⟩

/-! ## The head of CONTROL (R100 to R102, R178, R179) -/

theorem State.trailingOf_of_marker {s : State} {r : ControlReq} (hd : s.ring.state = .detached)
    (h : ∀ i : Fin 8, coversWith r (s.attachSel.toNat * 4096 + i.val)
      (([0x52, 0x41, 0x53, 0x4A, 0x45, 0x54, 0x2D, 0x41] : List Byte)[i.val])) :
    s.trailingOf r = some .attachRecord := by
  simp only [State.trailingOf, hd]
  exact if_pos ((marker_covered_iff r _).mpr h)

theorem State.trailingOf_of_no_marker {s : State} {r : ControlReq} (hd : s.ring.state = .detached) {i : Fin 8}
    (h : ¬ coversWith r (s.attachSel.toNat * 4096 + i.val)
      (([0x52, 0x41, 0x53, 0x4A, 0x45, 0x54, 0x2D, 0x41] : List Byte)[i.val])) : s.trailingOf r = none := by
  simp only [State.trailingOf, hd]
  exact if_neg fun hall => h ((marker_covered_iff r _).mp hall i)

theorem State.trailingOf_of_owner {s : State} {r : ControlReq} (ha : s.ring.state = .attached)
    (h : coversWith r (s.ring.reqBase.toNat + 32 * s.ring.consumer + 31) 1) :
    s.trailingOf r = some (.ringEntry s.ring.consumer) := by
  simp only [State.trailingOf, ha]
  exact if_pos ((controlCovers_iff r _ _).mpr h)

theorem State.trailingOf_of_no_owner {s : State} {r : ControlReq} (ha : s.ring.state = .attached)
    (h : ¬ coversWith r (s.ring.reqBase.toNat + 32 * s.ring.consumer + 31) 1) : s.trailingOf r = none := by
  simp only [State.trailingOf, ha]
  exact if_neg ((controlCovers_iff r _ _).not.mpr h)

theorem State.trailingOf_draining {s : State} {r : ControlReq} (h : s.ring.state = .draining) : s.trailingOf r = none := by
  simp only [State.trailingOf, h]

/-- A granted request leaves to its trailing fetch its place at the head of the queue. -/
def State.controlHeadTaken (s : State) (r : ControlReq) (rest : List ControlItem) : State :=
  { s with
    ctl := match s.trailingOf r with
      | some f => { s.ctl with queue := .trailing f :: rest }
      | none => ({ s.ctl with queue := rest } : ControlPort).pull
    ring := s.ring.handBack r }

theorem State.grantControl_request {s : State} {k : MemTag} {r : ControlReq} {rest : List ControlItem}
    (h : s.ctl.queue = .request r :: rest) (hblocked : s.blocked r = false) :
    s.grantControl k =
      (s.controlHeadTaken r rest).issue k .control 0 r.kind (.control r.tag) r.addr r.beats r.data := by
  simp only [State.grantControl, h, hblocked, Bool.false_eq_true, if_false]
  rfl

theorem State.controlHeadTaken_ctl_of_trailing {s : State} {r : ControlReq} {f : FetchTarget} (rest : List ControlItem)
    (h : s.trailingOf r = some f) : (s.controlHeadTaken r rest).ctl = { s.ctl with queue := .trailing f :: rest } := by
  simp only [State.controlHeadTaken, h]

theorem State.controlHeadTaken_ctl_of_none {s : State} {r : ControlReq} (rest : List ControlItem)
    (h : s.trailingOf r = none) (hheld : s.ctl.heldBack = []) :
    (s.controlHeadTaken r rest).ctl = { s.ctl with queue := rest } := by
  simp only [State.controlHeadTaken, h]
  exact ControlPort.pull_nil { s.ctl with queue := rest } hheld

/-- What a granted write hands back of the response ring (R179, R186). -/
theorem Ring.handBack_spec {r : Ring} (w : ControlReq) (h : r.state ≠ .detached) :
    r.handBack w = { r with mirror := (r.handBack w).mirror, attn := (r.handBack w).attn } ∧
      (∀ i : Fin 256,
        (i.val < r.respSize ∧ coversWith w (r.respBase.toNat + 32 * i.val + 31) 0 ∧ r.mirror.get i = .full →
          (r.handBack w).mirror.get i = .empty) ∧
        (¬ (i.val < r.respSize ∧ coversWith w (r.respBase.toNat + 32 * i.val + 31) 0 ∧ r.mirror.get i = .full) →
          (r.handBack w).mirror.get i = r.mirror.get i)) ∧
      (r.attn = r.anyFull → (r.handBack w).attn = (r.handBack w).anyFull) := by
  rw [Ring.handBack_eq r w h]
  refine ⟨foldl_handBackOne_eq w _ r, fun i => ?_, foldl_handBackOne_attn w _ r⟩
  have hget := foldl_handBackOne_get w (List.range (min r.respSize 256)) r i
  have hmem : i.val ∈ List.range (min r.respSize 256) ↔ i.val < r.respSize := by
    rw [List.mem_range]
    have := i.isLt
    omega
  have hcond : (i.val ∈ List.range (min r.respSize 256) ∧
        controlCovers w (ownerAddress r.respBase i.val) = some 0 ∧ r.mirror.get i = .full) ↔
      (i.val < r.respSize ∧ coversWith w (r.respBase.toNat + 32 * i.val + 31) 0 ∧ r.mirror.get i = .full) := by
    rw [hmem, controlCovers_iff, ownerAddress]
  exact ⟨fun hc => hget.trans (if_pos (hcond.mpr hc)), fun hc => hget.trans (if_neg (hcond.not.mpr hc))⟩

theorem fill_replicate (f : Byte) : f.replicate 8 = f ++ f ++ f ++ f ++ f ++ f ++ f ++ f := by
  revert f; decide +kernel

theorem controlQueueable_iff (r : ControlReq) :
    controlQueueable r = true ↔
      1 ≤ r.beats ∧ r.beats ≤ 32 ∧ r.addr.toNat % 8 = 0 ∧ r.addr.toNat + 8 * r.beats ≤ 2 ^ 40 := by
  simp only [controlQueueable, decide_eq_true_eq]

/-- The queue without a trailing fetch, its place given to the next request held back. -/
def State.trailingTaken (s : State) (rest : List ControlItem) : State :=
  { s with ctl := ({ s.ctl with queue := rest } : ControlPort).pull }

/-! ## The decision's grants -/

/-- The slot's part of the decision. -/
theorem State.grantTo_slot {s : State} {k : MemTag} {n : SlotId} {q : IngressEntry} {rest : List IngressEntry}
    (h : (s.slot n).ingress = q :: rest) :
    (match q.body with
      | .read tag => grants k s (s.grantTo k (.slot n)) (.slot n) (s.slot n).incarnation .read (.blade tag) q.addr q.beats []
      | .write data =>
        grants k s (s.grantTo k (.slot n)) (.slot n) (s.slot n).incarnation .write .none q.addr q.beats data) ∧
      (s.grantTo k (.slot n)).slot n = (s.slotHeadTaken n rest).slot n ∧
      (∀ m, m ≠ n → (s.grantTo k (.slot n)).slot m = s.slot m) ∧
      (s.grantTo k (.slot n)).trk.lastScrub = s.trk.lastScrub ∧ (s.grantTo k (.slot n)).ext = s.ext ∧
      (s.grantTo k (.slot n)).scrub = s.scrub ∧ (s.grantTo k (.slot n)).ring = s.ring ∧
      (s.grantTo k (.slot n)).ctl = s.ctl := by
  obtain ⟨kind, tag, data, hgrant, hbody⟩ := State.grantSlot_spec (k := k) h
  have hto : s.grantTo k (.slot n) = s.grantSlot k n := rfl
  rw [hto, hgrant]
  have hother : ∀ m, m ≠ n → (s.slotHeadTaken n rest).slot m = s.slot m := fun m hm => State.modSlot_slot_of_ne s n m _ hm
  refine ⟨?_, rfl, hother, rfl, rfl, rfl, s.slotHeadTaken_ring n rest, rfl⟩
  have hissued := grants_issue s (s.slotHeadTaken n rest) k (.slot n) (s.slot n).incarnation kind tag q.addr q.beats data rfl
  cases hq : q.body with
  | read b =>
    rw [hq] at hbody
    obtain ⟨rfl, rfl, rfl⟩ := hbody
    exact hissued
  | write d =>
    rw [hq] at hbody
    obtain ⟨rfl, rfl, rfl⟩ := hbody
    exact hissued

/-- SCRUB's part of the decision: write k of the pass. -/
theorem State.grantTo_scrub {s : State} {k : MemTag} {x : Nat} (h : s.scrub.current = some x) :
    grants k s (s.grantTo k .scrub) .scrub 0 .write (.scrub s.scrub.granted)
      (BitVec.ofNat 40 (s.ext.addressOf x + 256 * s.scrub.granted)) 32 (List.replicate 32 ⟨0xFF, s.ext.fillBeat⟩) ∧
      (s.grantTo k .scrub).scrub = { s.scrub with granted := s.scrub.granted + 1 } ∧
      (s.grantTo k .scrub).trk.lastScrub = some (s.grantTo k .scrub).now ∧ (s.grantTo k .scrub).slots = s.slots ∧
      (s.grantTo k .scrub).ext = s.ext ∧ (s.grantTo k .scrub).ring = s.ring ∧ (s.grantTo k .scrub).ctl = s.ctl := by
  have hissued := grants_issue s s k .scrub 0 .write (.scrub s.scrub.granted)
    (BitVec.ofNat 40 (s.ext.addressOf x + 256 * s.scrub.granted)) 32 (List.replicate 32 ⟨0xFF, s.ext.fillBeat⟩) rfl
  have hto : s.grantTo k .scrub = s.grantScrub k := rfl
  rw [hto]
  rw [State.grantScrub, h]
  exact ⟨hissued, rfl, rfl, rfl, rfl, rfl, rfl⟩

/-- RING's part of the decision: the head's request, and the queue without it. -/
theorem State.grantTo_ring {s : State} {k : MemTag} {op : RingOp} {rest : List RingOp} (h : s.ring.queue = op :: rest) :
    grants k s (s.grantTo k .ring) .ring 0 (s.ringRequest op).1 (.ring (s.ringRequest op).2.1) (s.ringRequest op).2.2.1
        (s.ringRequest op).2.2.2.1 (s.ringRequest op).2.2.2.2 ∧
      (s.ring.waiting = [] → (s.grantTo k .ring).ring = { s.ring with queue := rest }) ∧
      (s.grantTo k .ring).slots = s.slots ∧ (s.grantTo k .ring).trk.lastScrub = s.trk.lastScrub ∧
      (s.grantTo k .ring).ext = s.ext ∧ (s.grantTo k .ring).scrub = s.scrub ∧ (s.grantTo k .ring).ctl = s.ctl := by
  have hto : s.grantTo k .ring = s.grantRing k := rfl
  rw [hto]
  simp only [State.grantRing, h]
  exact ⟨grants_issue _ _ _ _ _ _ _ _ _ _ rfl, fun hw => Ring.refill_nil { s.ring with queue := rest } hw,
    rfl, rfl, rfl, rfl, rfl⟩

/-- CONTROL's part where its head is a request that no extent blocks. -/
theorem State.grantTo_request {s : State} {k : MemTag} {r : ControlReq} {rest : List ControlItem}
    (h : s.ctl.queue = .request r :: rest) (hblocked : s.blocked r = false) :
    grants k s (s.grantTo k .control) .control 0 r.kind (.control r.tag) r.addr r.beats r.data ∧
      (s.grantTo k .control).slots = s.slots ∧ (s.grantTo k .control).trk.lastScrub = s.trk.lastScrub ∧
      (s.grantTo k .control).ext = s.ext ∧ (s.grantTo k .control).scrub = s.scrub ∧
      (s.grantTo k .control).ctl = (s.controlHeadTaken r rest).ctl ∧
      (s.grantTo k .control).ring = s.ring.handBack r := by
  have hto : s.grantTo k .control = s.grantControl k := rfl
  rw [hto, State.grantControl_request h hblocked]
  exact ⟨grants_issue _ _ _ _ _ _ _ _ _ _ rfl, rfl, rfl, rfl, rfl, rfl, rfl⟩

/-- CONTROL's part where its head is a trailing fetch. -/
theorem State.grantTo_trailing {s : State} {k : MemTag} {f : FetchTarget} {rest : List ControlItem}
    (h : s.ctl.queue = .trailing f :: rest) :
    (match (generalizing := false) f with
      | .attachRecord =>
        grants k s (s.grantTo k .control) .control 0 .read (.trailing f) (BitVec.ofNat 40 (s.attachSel.toNat * 4096)) 16 []
      | .ringEntry idx =>
        grants k s (s.grantTo k .control) .control 0 .read (.trailing f) (s.ring.reqBase + BitVec.ofNat 40 (32 * idx)) 4 []) ∧
      (s.grantTo k .control).ctl = (s.trailingTaken rest).ctl ∧ (s.grantTo k .control).slots = s.slots ∧
      (s.grantTo k .control).trk.lastScrub = s.trk.lastScrub ∧ (s.grantTo k .control).ext = s.ext ∧
      (s.grantTo k .control).scrub = s.scrub ∧ (s.grantTo k .control).ring = s.ring := by
  have hto : s.grantTo k .control = s.grantTrailing k f rest := by
    show s.grantControl k = _
    simp only [State.grantControl, h]
  rw [hto]
  cases f with
  | attachRecord => exact ⟨grants_issue s (s.trailingTaken rest) _ _ _ _ _ _ _ _ rfl, rfl, rfl, rfl, rfl, rfl, rfl⟩
  | ringEntry idx => exact ⟨grants_issue s (s.trailingTaken rest) _ _ _ _ _ _ _ _ rfl, rfl, rfl, rfl, rfl, rfl, rfl⟩

/-- Settles O27: the decision, and what it takes of the participant that it grants. -/
theorem grantTakesTheHead : Obligations.GrantTakesTheHead := by
  intro before s elapsed k p hs hk hp
  obtain ⟨hnow, hsb, hparams, hsel, hdrawn, hpending⟩ := State.grantTo_frame s k p
  refine ⟨s.grantTo k p, by rw [exec_grant hs, State.decideGrant_of hk hp], hnow, hsb, hparams, hsel, hdrawn, hpending,
    ?_, ?_, ?_, ?_, ?_⟩
  · rintro n q rest rfl hq
    obtain ⟨hbody, hslot, hrest⟩ := State.grantTo_slot (k := k) hq
    exact ⟨hbody, hslot.trans (s.slotHeadTaken_slot n rest), hrest⟩
  · rintro r rest rfl hq hpass
    obtain ⟨hgrants, hslots, hlast, hext, hscrub, hctl, hring⟩ := State.grantTo_request (k := k) hq (State.not_blocked hpass)
    rw [hctl, hring]
    refine ⟨hgrants, hslots, hlast, hext, hscrub, fun hd hmark => ?_, fun ha hown => ?_, fun hcases hheld => ?_, fun hd => ?_,
      fun hd => Ring.handBack_spec r hd⟩
    · exact State.controlHeadTaken_ctl_of_trailing rest (State.trailingOf_of_marker hd hmark)
    · exact State.controlHeadTaken_ctl_of_trailing rest (State.trailingOf_of_owner ha hown)
    · refine State.controlHeadTaken_ctl_of_none rest ?_ hheld
      rcases hcases with ⟨hd, i, hi⟩ | ⟨ha, hown⟩ | hd
      · exact State.trailingOf_of_no_marker hd hi
      · exact State.trailingOf_of_no_owner ha hown
      · exact State.trailingOf_draining hd
    · exact if_pos hd
  · rintro f rest rfl hq
    obtain ⟨hgrants, hctl, hframe⟩ := State.grantTo_trailing (k := k) hq
    refine ⟨hgrants, fun hheld => ?_, fun r rs hheld hlen h1 h32 halign hend => ?_, hframe⟩
    · rw [hctl]
      exact ControlPort.pull_nil { s.ctl with queue := rest } hheld
    · rw [hctl]
      exact ControlPort.pull_one { s.ctl with queue := rest } r rs hheld hlen
        ((controlQueueable_iff r).mpr ⟨h1, h32, halign, hend⟩)
  · rintro op rest rfl hq
    obtain ⟨hgrants, hframe⟩ := State.grantTo_ring (k := k) hq
    refine ⟨?_, hframe⟩
    cases op with
    | fetch idx => exact hgrants
    | taken idx => exact hgrants
    | response idx rec => exact hgrants
    | status u => cases u <;> exact hgrants
    | attachResult st field => exact hgrants
  · rintro x rfl hx
    obtain ⟨hgrants, hframe⟩ := State.grantTo_scrub (k := k) hx
    refine ⟨?_, hframe⟩
    rw [ExtentTable.fillBeat, fill_replicate] at hgrants
    exact hgrants

/-! ## Requests that are answered without a grant, and requests that arrive (R100 to R102, R178) -/

theorem State.blocked_of {s : State} {r : ControlReq} {x : Nat} (ha : s.ring.state = .attached)
    (hx : x ∈ touchedExtents s.ext.base s.ext.count r.addr r.beats)
    (hst : (s.extent x).state ∈ [.dirty, .scrubbing, .bad] ∨ ((s.extent x).state = .free ∧ r.kind = .write)) :
    s.blocked r = true := by
  simp only [State.blocked, ha, decide_true, Bool.true_and, List.any_eq_true]
  refine ⟨x, hx, ?_⟩
  rcases hst with hst | ⟨hfree, hwrite⟩
  · simp only [List.mem_cons, List.not_mem_nil, or_false] at hst
    rcases hst with h | h | h <;> simp [h, ExtentState.passes]
  · simp [hfree, hwrite, ExtentState.passes, isRead]

/-- Settles O29, by the kind of the request. -/
theorem blockedControlRequestsAreFilled : Obligations.BlockedControlRequestsAreFilled := by
  intro before s elapsed k r rest x hs hk hp hq hheld ha hx hst
  have hgrant : s.grantTo k .control = s.answerFilled r rest := by
    show s.grantControl k = _
    simp only [State.grantControl, hq, State.blocked_of ha hx hst, if_true]
  refine ⟨s.answerFilled r rest, by rw [exec_grant hs, State.decideGrant_of hk hp, hgrant], ?_⟩
  have hpull (ans : List ControlAnswer) :
      ({ s.ctl with queue := rest, answers := ans } : ControlPort).pull = { s.ctl with queue := rest, answers := ans } :=
    ControlPort.pull_nil _ hheld
  unfold State.answerFilled
  dsimp only
  rw [hpull]
  cases hkind : r.kind with
  | write => exact ⟨rfl, rfl, rfl, rfl, rfl, rfl, rfl, rfl, rfl, rfl, hheld, rfl, rfl, rfl⟩
  | read =>
    refine ⟨rfl, rfl, rfl, rfl, rfl, rfl, rfl, rfl, rfl, rfl, hheld, ?_, rfl, rfl⟩
    simp only [isRead, if_true, ExtentTable.fillBeat, fill_replicate]
    rfl

/-- Settles O34, by whether the queue has a place, and whether the request can take it. -/
theorem controlRequestsAreQueued : Obligations.ControlRequestsAreQueued := by
  intro s r hheld
  have hpull : ({ s.ctl with heldBack := s.ctl.heldBack ++ [r] } : ControlPort).pull =
      if 16 ≤ s.ctl.queue.length then { s.ctl with heldBack := [r] }
      else if 1 ≤ r.beats ∧ r.beats ≤ 32 ∧ r.addr.toNat % 8 = 0 ∧ r.addr.toNat + 8 * r.beats ≤ 2 ^ 40 then
        { s.ctl with queue := s.ctl.queue ++ [.request r] }
      else { s.ctl with answers := s.ctl.answers ++ [⟨r.tag, .memoryError, []⟩] } := by
    rcases hctl : s.ctl with ⟨queue, heldBack, answers⟩
    rw [hctl] at hheld
    obtain rfl : heldBack = [] := hheld
    simp only [ControlPort.pull, List.nil_append, pullControl, ← controlQueueable_iff]
    split
    · rfl
    · split <;> rfl
  exact congrArg (fun c => Host.Outcome.next { s with ctl := c }) hpull

end Sys2Proof.Machine
end

section
/-! Completions that find ISSUED (R78, R116 to R119, R183), and what an attach record that is fetched makes of the part (R8, R82,
R83, R128, R181, R182). -/

namespace Sys2Proof.Machine

/-! ## Slot records that the status block does not show -/

theorem State.count_eq_withSlot (s : State) (n : SlotId) (g : Counters → Counters) :
    (s.modSlot n fun sl => sl.count g) = s.withSlot n { s.slot n with counters := g (s.slot n).counters } :=
  State.modSlot_eq_withSlot s n _ rfl

theorem State.sendData_eq_withSlot (s : State) (n : SlotId) (f : DataFrame) :
    (s.modSlot n fun sl => sl.sendData f) = s.withSlot n ((s.slot n).sendData f) :=
  State.modSlot_eq_withSlot s n _ rfl

theorem State.hold_eq_withSlot (s : State) (n : SlotId) (k : MemTag) :
    (s.modSlot n fun sl => { sl with holdList := sl.holdList ++ [k] }) =
      s.withSlot n { s.slot n with holdList := (s.slot n).holdList ++ [k] } :=
  State.modSlot_eq_withSlot s n _ rfl

@[simp] theorem State.withSlot_freeEntry (s : State) (n : SlotId) (sl : Slot) (k : MemTag) :
    (s.withSlot n sl).freeEntry k = (s.freeEntry k).withSlot n sl := rfl

@[simp] theorem State.withSlot_setEntry (s : State) (n : SlotId) (sl : Slot) (k : MemTag) (e : Entry) :
    (s.withSlot n sl).setEntry k e = (s.setEntry k e).withSlot n sl := rfl

@[simp] theorem State.heard_slot (s : State) (k : MemTag) (n : SlotId) : (s.heard k).slot n = s.slot n := rfl

@[simp] theorem State.completed_slot (s : State) (k : MemTag) (n : SlotId) : (s.completed k).slot n = s.slot n := rfl

@[simp] theorem State.heard_freeEntry (s : State) (k : MemTag) : (s.heard k).freeEntry k = s.completed k := rfl

/-- What an ERROR counts in MEMERR, and an OK does not (R78, R117). -/
def Slot.memerr (sl : Slot) (ok : Bool) : Slot :=
  { sl with counters := if ok then sl.counters else sl.counters.addMemerr }

theorem State.memerr_eq_withSlot (s : State) (n : SlotId) (ok : Bool) :
    (if ok = true then s else s.modSlot n fun sl => sl.count Counters.addMemerr) = s.withSlot n ((s.slot n).memerr ok) := by
  cases ok with
  | true => exact (State.withSlot_self s n).symm
  | false => exact State.count_eq_withSlot s n Counters.addMemerr

/-! ## A slot read (R78, R117) -/

/-- The completion of an ISSUED slot read, by what its slot can do with the answer. -/
theorem State.completeRead_eq (s : State) (k : MemTag) (n : SlotId) (e : Entry) (tag : BladeTag) (ok : Bool)
    (data : List Beat) :
    s.completeRead k n e tag ok data =
      if (s.slot n).canReceive = true ∧ e.incarnation = (s.slot n).incarnation then
        (s.freeEntry k).withSlot n
          (((s.slot n).memerr ok).sendData (if ok then ⟨tag, .ok, data⟩ else ⟨tag, .memoryError, []⟩))
      else if (s.slot n).state = .grace then
        (s.setEntry k { e with state := .waiting, held := .completion ok (if ok then data else []) }).withSlot n
          { (s.slot n).memerr ok with holdList := (s.slot n).holdList ++ [k] }
      else (s.freeEntry k).withSlot n ((s.slot n).memerr ok) := by
  unfold State.completeRead
  dsimp only
  rw [State.memerr_eq_withSlot]
  split
  · rw [State.withSlot_freeEntry, State.sendData_eq_withSlot, State.withSlot_slot_self, State.withSlot_withSlot]
  · split
    · rw [State.withSlot_setEntry, State.hold_eq_withSlot, State.withSlot_slot_self, State.withSlot_withSlot]
      rfl
    · rw [State.withSlot_freeEntry]

theorem exec_completeRead {s : State} {k : MemTag} {n : SlotId} {tag : BladeTag} (hst : (s.entry k).state = .issued)
    (hwho : (s.entry k).who = .slot n) (hkind : (s.entry k).kind = .read) (htag : (s.entry k).tag = .blade tag) (ok : Bool)
    (data : List Beat) :
    exec (.memoryCompletion k ok data) s = .next ((s.heard k).completeRead k n (s.entry k) tag ok data) := by
  rw [exec_memoryCompletion, State.complete_issued s k ok data hst]
  simp only [State.completeIssued, hwho, hkind, htag]

/-! ## The attach (R8, R82, R83, R182) -/

/-- The state that an OK result makes before the Scrub Engine takes the first extent. -/
def State.attaching (s : State) (a : AttachRecord) : State :=
  { s with
    ring := s.ring.attach a
    ext := attachExtents a
    scrub := ScrubEngine.reset
    params := a.params
    sb := { s.sb with timeout := a.sidebandTimeout }
    trk := { s.trk with timeout := a.completionTimeout, pace := a.scrubPace }
    slots := Vector.ofFn fun n => (s.slot n).atAttach s.now a.debounce }

theorem State.attach_eq (s : State) (a : AttachRecord) : s.attach a = (s.attaching a).scrubTake := rfl

theorem State.attaching_slot (s : State) (a : AttachRecord) (n : SlotId) :
    (s.attaching a).slot n = (s.slot n).seatedAtAttach s.now a := by
  rw [← Slot.atAttach_eq]
  exact Vector.get_ofFn _ n

theorem State.attaching_extent_of_clean {a : AttachRecord} (h : a.scrubAtAttach = false) (s : State) (x : Nat) :
    (s.attaching a).extent x = Extent.free :=
  State.extent_of_cleared (by simp [State.attaching, attachExtents, attachRecords, h]) x

theorem State.attaching_extent_of_scrub {a : AttachRecord} (h : a.scrubAtAttach = true) (hcount : a.extentCount ≤ 2048)
    (s : State) (x : Nat) :
    (s.attaching a).extent x = if x < a.extentCount then Extent.dirty else Extent.free := by
  unfold State.extent
  split
  · rename_i hx
    have hget : (s.attaching a).ext.records.get ⟨x, hx⟩ =
        (List.replicate (min a.extentCount 2048) Extent.dirty ++ List.replicate (2048 - a.extentCount) Extent.free)[x]'(by
          simp; omega) := by
      simp only [State.attaching, attachExtents, attachRecords, h, if_true]
      rfl
    rw [hget, List.getElem_append]
    simp only [List.length_replicate, List.getElem_replicate, Nat.min_eq_left hcount]
    split <;> rfl
  · rw [if_neg (by omega)]

theorem AttachRecord.range_count {a : AttachRecord} (h : 1 ≤ a.extentCount) :
    List.range a.extentCount = 0 :: List.range' 1 (a.extentCount - 1) := by
  obtain ⟨m, hm⟩ := Nat.exists_eq_add_of_le' h
  rw [hm, List.range_eq_range', List.range'_succ]
  rfl

theorem State.addressed_zero (s : State) (a : AttachRecord) :
    (s.attaching a).addressed 0 = true ↔ ∃ k, (s.entry k).addresses (BitVec.ofNat 40 a.managedBase).toNat = true := by
  have hbase : (s.attaching a).ext.addressOf 0 = (BitVec.ofNat 40 a.managedBase).toNat := by
    simp [State.attaching, attachExtents, ExtentTable.addressOf]
  rw [State.addressed, hbase]
  exact State.any_entry s fun e => e.addresses (BitVec.ofNat 40 a.managedBase).toNat

/-- What the take of extent 0 changes: the extents, the scrub queue and the engine. -/
theorem State.attaching_take {s : State} {a : AttachRecord} (hscrub : a.scrubAtAttach = true) (hone : 1 ≤ a.extentCount) :
    (s.attaching a).scrubTake =
      if (s.attaching a).addressed 0 = true then
        { s.attaching a with
          ext := { (s.attaching a).ext with queue := List.range' 1 (a.extentCount - 1) ++ [0] }
          scrub := { ScrubEngine.reset with deferral := 1 } }
      else
        { (s.attaching a).setExtent 0 ⟨.scrubbing, none, 0, false⟩ with
          ext := { ((s.attaching a).setExtent 0 ⟨.scrubbing, none, 0, false⟩).ext with
            queue := List.range' 1 (a.extentCount - 1) }
          scrub := ⟨some 0, 0, 0, 0, 0, 0⟩
          ring := ((s.attaching a).setExtent 0 ⟨.scrubbing, none, 0, false⟩).ring.markStale .header } := by
  have hqueue : (s.attaching a).ext.queue = 0 :: List.range' 1 (a.extentCount - 1) := by
    rw [← AttachRecord.range_count hone]
    simp [State.attaching, attachExtents, hscrub]
  have hready : (s.attaching a).scrubReady = true := by
    rw [State.scrubReady, hqueue]
    simp [State.attaching, Ring.attach_state, ScrubEngine.reset]
  simp only [State.scrubTake, hqueue, hready, Bool.true_eq_false, if_false]
  split <;> rfl

/-- Extent 0 taken at an attach marks no unit that is not stale already. -/
theorem State.attaching_setExtent_ring {s : State} {a : AttachRecord} (hring : s.ring.attach a = s.ring.attachedWith a)
    (x : Nat) (e : Extent) : ((s.attaching a).setExtent x e).ring = s.ring.attachedWith a := by
  have hbase : (s.attaching a).ring = s.ring.attachedWith a := hring
  unfold State.setExtent
  split
  · dsimp only
    rw [hbase]
    split_ifs <;> simp only [Ring.markStale_header_attachedWith, Ring.markStale_map_attachedWith]
  · exact hbase

/-- The fields of an attached part that the Scrub Engine's take does not touch. -/
def attachedFields (s u : State) (a : AttachRecord) : Prop :=
  u.params = a.params ∧ u.sb = { s.sb with timeout := a.sidebandTimeout } ∧
    u.trk = { s.trk with timeout := a.completionTimeout, pace := a.scrubPace } ∧
    (∀ n, u.slot n = (s.slot n).seatedAtAttach s.now a) ∧ u.ext.base = BitVec.ofNat 40 a.managedBase ∧
    u.ext.count = a.extentCount ∧ u.ext.fill = a.fill ∧ u.ext.discards = 0 ∧ u.now = s.now ∧ u.ctl = s.ctl ∧
    u.attachSel = s.attachSel ∧ u.drawn = s.drawn ∧ u.pending = s.pending

theorem State.attaching_fields (s : State) (a : AttachRecord) : attachedFields s (s.attaching a) a :=
  ⟨rfl, rfl, rfl, s.attaching_slot a, rfl, rfl, rfl, rfl, rfl, rfl, rfl, rfl, rfl⟩

/-- The same after an extent's record, the queue, the engine and the ring are set. -/
theorem State.attaching_setExtent_fields (s : State) (a : AttachRecord) (x : Nat) (e : Extent) (queue : List Nat)
    (scrub : ScrubEngine) (ring : Ring) :
    attachedFields s { (s.attaching a).setExtent x e with
      ext := { ((s.attaching a).setExtent x e).ext with queue := queue }, scrub := scrub, ring := ring } a := by
  have hext := State.setExtent_ext (s.attaching a) x e
  have hslots := State.setExtent_slot (s.attaching a) x e
  exact ⟨State.setExtent_params _ x e, State.setExtent_sb _ x e, State.setExtent_trk _ x e,
    fun n => (hslots n).trans (s.attaching_slot a n), congrArg ExtentTable.base hext, congrArg ExtentTable.count hext,
    congrArg ExtentTable.fill hext, congrArg ExtentTable.discards hext, State.setExtent_now _ x e, State.setExtent_ctl _ x e,
    State.setExtent_attachSel _ x e, State.setExtent_drawn _ x e, State.setExtent_pending _ x e⟩

/-- A part with these fields is attached as R182 asks, where its ring, its extents and its Scrub Engine are too. -/
theorem attachedFields.attachesWith {s u : State} {a : AttachRecord} (h : attachedFields s u a)
    (hring : u.ring = s.ring.attachedWith a)
    (hclean : a.scrubAtAttach = false → (∀ x, u.extent x = Extent.free) ∧ u.ext.queue = [] ∧ u.scrub = ScrubEngine.reset)
    (hscrub : a.scrubAtAttach = true →
      (∀ k, (s.entry k).addresses (BitVec.ofNat 40 a.managedBase).toNat = false) →
      u.extent 0 = ⟨.scrubbing, none, 0, false⟩ ∧ (∀ x, 1 ≤ x → x < a.extentCount → u.extent x = Extent.dirty) ∧
        (∀ x, a.extentCount ≤ x → u.extent x = Extent.free) ∧ u.ext.queue = List.range' 1 (a.extentCount - 1) ∧
        u.scrub = ⟨some 0, 0, 0, 0, 0, 0⟩) : attachesWith s u a := by
  obtain ⟨hparams, hsb, htrk, hslot, hbase, hcount, hfill, hdisc, hnow, hctl, hsel, hdrawn, hpending⟩ := h
  exact ⟨hring, hparams, hsb, htrk, hslot, hbase, hcount, hfill, hdisc, hnow, hctl, hsel, hdrawn, hpending, hclean, hscrub⟩

theorem State.attach_attachesWith {s : State} {a : AttachRecord} (hring : s.ring.attach a = s.ring.attachedWith a)
    (hone : 1 ≤ a.extentCount) (hcount : a.extentCount ≤ 2048) : attachesWith s (s.attach a) a := by
  rw [State.attach_eq]
  cases hscrub : a.scrubAtAttach with
  | false =>
    have hqueue : (s.attaching a).ext.queue = [] := by simp [State.attaching, attachExtents, hscrub]
    rw [State.scrubTake_nil _ hqueue]
    exact (s.attaching_fields a).attachesWith hring
      (fun _ => ⟨State.attaching_extent_of_clean hscrub s, hqueue, rfl⟩) fun h => absurd (hscrub.symm.trans h) (by decide)
  | true =>
    rw [State.attaching_take hscrub hone]
    by_cases haddr : (s.attaching a).addressed 0 = true
    · rw [if_pos haddr]
      refine attachedFields.attachesWith (s.attaching_fields a) hring (fun h => absurd (hscrub.symm.trans h) (by decide))
        fun _ hnone => ?_
      obtain ⟨k, hk⟩ := (State.addressed_zero s a).mp haddr
      exact absurd ((hnone k).symm.trans hk) (by decide)
    · rw [if_neg haddr]
      have hextent (x : Nat) := State.setExtent_extent (s.attaching a) 0 ⟨.scrubbing, none, 0, false⟩ x
      have hdirty := State.attaching_extent_of_scrub hscrub hcount s
      refine attachedFields.attachesWith (s.attaching_setExtent_fields a _ _ _ _ _) ?_
        (fun h => absurd (hscrub.symm.trans h) (by decide)) fun _ _ => ⟨?_, fun x hx1 hx => ?_, fun x hx => ?_, rfl, rfl⟩
      · rw [State.attaching_setExtent_ring hring, Ring.markStale_header_attachedWith]
      · exact (hextent 0).trans (if_pos ⟨rfl, by decide⟩)
      · refine (hextent x).trans ?_
        rw [if_neg (by omega), hdirty, if_pos hx]
      · refine (hextent x).trans ?_
        rw [if_neg (by omega), hdirty, if_neg (by omega)]

/-! ## An attach record that is fetched (R128, R181) -/

/-- A fetched attach record, judged by its checks in order, and then by the tracker. -/
theorem State.attachFetched_spec {s : State} {data : List Beat} (hd : s.ring.state = .detached)
    (hmark : hasMarker data = true) (hplace : s.ring.queue.length ≤ 14) (hwait : s.ring.waiting = []) :
    (∀ f, firstFails ((AttachRecord.parse data).checks (s.attachSel.toNat * 4096)) f →
      s.attachFetched data = { s with ring := { s.ring with queue := s.ring.queue ++ [.attachResult .badField f] } }) ∧
    ((∀ c ∈ (AttachRecord.parse data).checks (s.attachSel.toNat * 4096), c.2) →
      s.attachBusy (AttachRecord.parse data) = true →
      s.attachFetched data = { s with ring := { s.ring with queue := s.ring.queue ++ [.attachResult .busy 0] } }) ∧
    ((∀ c ∈ (AttachRecord.parse data).checks (s.attachSel.toNat * 4096), c.2) →
      s.attachBusy (AttachRecord.parse data) = false →
      s.attachFetched data = s.attach (AttachRecord.parse data)) := by
  have htests := AttachRecord.checks_tests (AttachRecord.parse data) s.attachPage
  have hjudge : s.attachFetched data =
      match (AttachRecord.parse data).failing s.attachPage with
      | some k => s.attachRefused .badField k
      | none => if s.attachBusy (AttachRecord.parse data) then s.attachRefused .busy 0
        else s.attach (AttachRecord.parse data) := by
    unfold State.attachFetched
    exact (if_neg (by simp [hd, hmark])).trans rfl
  have hrefused (st : Status) (f : Nat) : s.attachRefused st f =
      { s with ring := { s.ring with queue := s.ring.queue ++ [.attachResult st f] } } := by
    rw [State.attachRefused, Ring.enqueue, if_pos ⟨by omega, hwait⟩]
  rw [hjudge, AttachRecord.failing_eq]
  refine ⟨fun f hf => ?_, fun hall hbusy => ?_, fun hall hbusy => ?_⟩
  · rw [firstTrue_some htests hf]
    exact hrefused _ _
  · rw [firstTrue_none htests hall]
    simp only [hbusy, if_true]
    exact hrefused _ _
  · rw [firstTrue_none htests hall]
    simp only [hbusy, Bool.false_eq_true, if_false]

theorem AttachRecord.extentCount_of_checks {a : AttachRecord} {page : Nat} (h : ∀ c ∈ a.checks page, c.2) :
    1 ≤ a.extentCount ∧ a.extentCount ≤ 2048 :=
  h (7, 1 ≤ a.extentCount ∧ a.extentCount ≤ 2048) (by simp [AttachRecord.checks])

theorem exec_completeFetch {s : State} {k : MemTag} {f : FetchTarget} (hst : (s.entry k).state = .issued)
    (hwho : (s.entry k).who = .control) (htag : (s.entry k).tag = .trailing f) (ok : Bool) (data : List Beat) :
    exec (.memoryCompletion k ok data) s = .next (if ok = true then (s.completed k).fetched f data else s.completed k) := by
  rw [exec_memoryCompletion, State.complete_issued s k ok data hst]
  simp only [State.completeIssued, hwho, State.completeControl, htag]
  rfl

/-- Settles O30, by requester: a slot's read, a control request, a fetched ring entry, a fetched attach record. -/
theorem slotReadCompletions : Obligations.SlotReadCompletions := by
  intro s k hst
  refine ⟨fun n tag ok data hwho hkind htag => ?_, fun tag ok data hwho htag => ?_, fun idx ok data hcase => ?_,
    fun ok data hwho htag => ?_⟩
  · have hexec := exec_completeRead hst hwho hkind htag ok data
    rw [State.completeRead_eq, State.heard_slot] at hexec
    have hreceives := Slot.canReceive_iff (s.slot n)
    refine ⟨fun hrec hinc => ?_, fun hgrace => ?_, fun hnot hgrace => ?_⟩
    · rw [hexec, if_pos ⟨hreceives.mpr hrec, hinc⟩]
      cases ok <;> rfl
    · have hclosed : ¬ ((s.slot n).canReceive = true ∧ (s.entry k).incarnation = (s.slot n).incarnation) := by
        simp [hreceives, hgrace]
      rw [hexec, if_neg hclosed, if_pos hgrace]
      rfl
    · rw [hexec, if_neg fun h => hnot ⟨hreceives.mp h.1, h.2⟩, if_neg hgrace]
      rfl
  · rw [exec_memoryCompletion, State.complete_issued s k ok data hst]
    simp only [State.completeIssued, hwho, State.completeControl, htag]
    have hanswer : controlAnswer tag (s.entry k).kind ok data =
        if ok = false then ⟨tag, .memoryError, []⟩
        else if (s.entry k).kind = .read then ⟨tag, .ok, data⟩ else ⟨tag, .ok, []⟩ := by
      unfold controlAnswer
      cases ok <;> cases (s.entry k).kind <;> rfl
    rw [hanswer]
    rfl
  · have hexec : exec (.memoryCompletion k ok data) s =
        .next (if ok = true then (s.completed k).fetched (.ringEntry idx) data else s.completed k) := by
      rcases hcase with ⟨hwho, htag⟩ | ⟨hwho, hkind, htag⟩
      · exact exec_completeFetch hst hwho htag ok data
      · rw [exec_memoryCompletion, State.complete_issued s k ok data hst]
        simp only [State.completeIssued, hwho, State.completeRing, htag, hkind, reduceCtorEq, and_false, if_false]
        rfl
    rw [hexec]
    cases ok with
    | false => simp only [Bool.false_eq_true, if_false, false_and]
    | true => simp only [if_true, true_and, State.fetched_ringEntry]
  · have hexec := exec_completeFetch hst hwho htag ok data
    refine ⟨fun hdrop => ?_, fun hok hd hmark hplace hwait => ?_⟩
    · rw [hexec]
      cases ok with
      | false => rfl
      | true =>
        have hdrop' : (s.completed k).ring.state ≠ .detached ∨ hasMarker data = false :=
          hdrop.resolve_left (by decide)
        rw [if_pos rfl, State.fetched, State.attachFetched, if_pos hdrop']
    · rw [hexec, if_pos hok]
      obtain ⟨hbad, hbusy, hattach⟩ := State.attachFetched_spec (s := s.completed k) hd hmark hplace hwait
      refine ⟨fun f hf => congrArg Host.Outcome.next (hbad f hf), fun hall hone => ?_, fun hall hnone hpend hres => ?_⟩
      · exact congrArg Host.Outcome.next (hbusy hall ((State.attachBusy_iff s k _).mpr hone))
      · have hfree : (s.completed k).attachBusy (AttachRecord.parse data) = false := by
          rw [← Bool.not_eq_true, State.attachBusy_iff]
          rintro ⟨j, hj, hb⟩
          exact hnone j hj hb
        obtain ⟨hlo, hhi⟩ := AttachRecord.extentCount_of_checks hall
        exact ⟨_, congrArg Host.Outcome.next (hattach hall hfree),
          State.attach_attachesWith (Ring.attach_eq _ _ hplace hwait hpend hres) hlo hhi⟩

end Sys2Proof.Machine
end

section
/-! Completions that come late, and those that report an error (R118, R124, R126, R173, R186), and the deadline of an entry
(R121, R123, R173, R178, R183, R186). -/

namespace Sys2Proof.Machine

/-! ## Write errors -/

/-- An ERROR write of a slot counts in MEMERR and is posted with the state its completion found. -/
theorem State.slotWriteError_eq {s : State} {n : SlotId} {e : Entry} (hwho : e.who = .slot n) :
    s.slotWriteError n e e.state =
      { s.withSlot n { s.slot n with counters := (s.slot n).counters.addMemerr } with
        ring := s.ring.postEvent e.writeError } := by
  rw [State.slotWriteError, State.count_eq_withSlot, Entry.writeError, hwho]
  rfl

/-- An ERROR write of RING, whose entries are of no incarnation, is posted with the state its completion found. -/
theorem State.ringWriteError_eq {s : State} {e : Entry} (hwho : e.who = .ring) (hinc : e.incarnation = 0) :
    s.ringWriteError e e.state = { s with ring := s.ring.postEvent e.writeError } := by
  rw [State.ringWriteError, Entry.writeError, hwho, hinc]
  rfl

/-! ## Completions by the state of their entry -/

theorem exec_completeIssued {s : State} {k : MemTag} (hst : (s.entry k).state = .issued) (ok : Bool) (data : List Beat) :
    exec (.memoryCompletion k ok data) s = .next ((s.heard k).completeIssued k (s.entry k) ok data) := by
  rw [exec_memoryCompletion, State.complete_issued s k ok data hst]

theorem exec_completeLate {s : State} {k : MemTag} (hst : (s.entry k).state = .late) (ok : Bool) (data : List Beat) :
    exec (.memoryCompletion k ok data) s = .next ((s.heard k).completeLate k (s.entry k) ok) := by
  rw [exec_memoryCompletion, State.complete, hst]
  rfl

theorem exec_completeOrphan {s : State} {k : MemTag} (hst : (s.entry k).state = .orphan) (ok : Bool) (data : List Beat) :
    exec (.memoryCompletion k ok data) s = .next ((s.heard k).completeOrphan k (s.entry k) ok) := by
  rw [exec_memoryCompletion, State.complete, hst]
  rfl

/-- A LATE entry of a slot counts in LATE, and keeps a TIMEOUT answer in WAITING, or posts its error, or is freed. -/
theorem State.completeLate_slot {s : State} {k : MemTag} {n : SlotId} {e : Entry} (hwho : e.who = .slot n)
    (hst : e.state = .late) (ok : Bool) :
    (s.heard k).completeLate k e ok =
      if e.held = .timeout then
        ((s.heard k).setEntry k { e with state := .waiting }).withSlot n
          { s.slot n with counters := (s.slot n).counters.addLate }
      else if ok = false ∧ e.kind = .write then
        { (s.completed k).withSlot n { s.slot n with counters := (s.slot n).counters.addLate.addMemerr } with
          ring := s.ring.postEvent e.writeError }
      else (s.completed k).withSlot n { s.slot n with counters := (s.slot n).counters.addLate } := by
  simp only [State.completeLate, hwho, State.count_eq_withSlot]
  have herr := State.slotWriteError_eq (s := (s.completed k).withSlot n
    { s.slot n with counters := (s.slot n).counters.addLate }) hwho
  rw [hst, State.withSlot_slot_self, State.withSlot_withSlot] at herr
  split
  · rfl
  · split
    · exact herr
    · rfl

/-- A LATE entry that no slot made is freed; an ERROR write of RING is posted. -/
theorem State.completeLate_ring {s : State} {k : MemTag} {e : Entry} (hwho : e.who = .ring) (hst : e.state = .late)
    (hinc : e.incarnation = 0) (ok : Bool) (hkind : e.kind = .write) :
    (s.heard k).completeLate k e ok =
      if ok = true then s.completed k else { s.completed k with ring := s.ring.postEvent e.writeError } := by
  have herr := State.ringWriteError_eq (s := s.completed k) hwho hinc
  rw [hst] at herr
  simp only [State.completeLate, hwho, hkind, and_true, State.heard_freeEntry, herr]
  cases ok <;> rfl

/-- Every other LATE entry is freed. -/
theorem State.completeLate_freed {s : State} {k : MemTag} {e : Entry} {ok : Bool}
    (h : e.who ∈ [Participant.control, .scrub] ∨ (e.who = .ring ∧ (ok = true ∨ e.kind = .read))) :
    (s.heard k).completeLate k e ok = s.completed k := by
  rcases h with h | ⟨hwho, hquiet⟩
  · simp only [List.mem_cons, List.not_mem_nil, or_false] at h
    rcases h with hwho | hwho <;> simp only [State.completeLate, hwho, State.heard_freeEntry]
  · have hno : ¬ (ok = false ∧ e.kind = .write) := by rcases hquiet with h | h <;> simp [h]
    simp only [State.completeLate, hwho, if_neg hno, State.heard_freeEntry]

/-- An ORPHAN posts an ERROR write of a slot while attached, and is freed. -/
theorem State.completeOrphan_slot {s : State} {k : MemTag} {n : SlotId} {e : Entry} (hwho : e.who = .slot n)
    (hst : e.state = .orphan) (hkind : e.kind = .write) (hatt : s.ring.state = .attached) (ok : Bool) :
    (s.heard k).completeOrphan k e ok =
      if ok = true then s.completed k
      else { (s.completed k).withSlot n { s.slot n with counters := (s.slot n).counters.addMemerr } with
        ring := s.ring.postEvent e.writeError } := by
  have herr := State.slotWriteError_eq (s := s.completed k) hwho
  rw [hst] at herr
  cases ok with
  | true => rfl
  | false =>
    have hcond : false = false ∧ e.kind = .write ∧ (s.heard k).ring.state = .attached := ⟨rfl, hkind, hatt⟩
    unfold State.completeOrphan
    dsimp only
    rw [if_pos hcond, hwho]
    exact herr

/-- An ORPHAN posts an ERROR write of RING while attached, and is freed. -/
theorem State.completeOrphan_ring {s : State} {k : MemTag} {e : Entry} (hwho : e.who = .ring) (hst : e.state = .orphan)
    (hinc : e.incarnation = 0) (hkind : e.kind = .write) (hatt : s.ring.state = .attached) (ok : Bool) :
    (s.heard k).completeOrphan k e ok =
      if ok = true then s.completed k else { s.completed k with ring := s.ring.postEvent e.writeError } := by
  have herr := State.ringWriteError_eq (s := s.completed k) hwho hinc
  rw [hst] at herr
  cases ok with
  | true => rfl
  | false =>
    have hcond : false = false ∧ e.kind = .write ∧ (s.heard k).ring.state = .attached := ⟨rfl, hkind, hatt⟩
    unfold State.completeOrphan
    dsimp only
    rw [if_pos hcond, hwho]
    exact herr

/-- Every other ORPHAN is freed. -/
theorem State.completeOrphan_freed {s : State} {k : MemTag} {e : Entry} {ok : Bool}
    (h : ok = true ∨ e.kind = .read ∨ s.ring.state ≠ .attached ∨ e.who ∈ [Participant.control, .scrub]) :
    (s.heard k).completeOrphan k e ok = s.completed k := by
  unfold State.completeOrphan
  dsimp only
  split
  next hcond =>
    obtain ⟨hok, hkind, hatt⟩ := hcond
    have hwho : e.who ∈ [Participant.control, .scrub] := by
      rcases h with h | h | h | h
      · exact absurd (hok.symm.trans h) (by decide)
      · exact absurd (hkind.symm.trans h) (by decide)
      · exact absurd hatt h
      · exact h
    simp only [List.mem_cons, List.not_mem_nil, or_false] at hwho
    rcases hwho with hwho | hwho <;> rw [hwho] <;> rfl
  next => rfl

/-- An ISSUED write of a slot is freed, and posts an ERROR. -/
theorem State.completeIssued_slotWrite {s : State} {k : MemTag} {n : SlotId} {e : Entry} (hwho : e.who = .slot n)
    (hst : e.state = .issued) (hkind : e.kind = .write) (ok : Bool) (data : List Beat) :
    (s.heard k).completeIssued k e ok data =
      if ok = true then s.completed k
      else { (s.completed k).withSlot n { s.slot n with counters := (s.slot n).counters.addMemerr } with
        ring := s.ring.postEvent e.writeError } := by
  have herr := State.slotWriteError_eq (s := s.completed k) hwho
  rw [hst] at herr
  simp only [State.completeIssued, hwho, hkind, State.heard_freeEntry]
  cases ok with
  | true => rfl
  | false => exact herr

/-- An ISSUED write of RING: the error posted, then what the end of the request does at the Ring Interface. -/
theorem State.completeIssued_ringWrite {s : State} {k : MemTag} {e : Entry} {ref : RingRef} (hwho : e.who = .ring)
    (hst : e.state = .issued) (hinc : e.incarnation = 0) (hkind : e.kind = .write) (htag : e.tag = .ring ref)
    (hfetch : ∀ i, ref ≠ .fetch i) (ok : Bool) (data : List Beat) :
    (s.heard k).completeIssued k e ok data = { s.completed k with
      ring := (if ok = true then s.ring else s.ring.postEvent e.writeError).ended ref } := by
  have herr := State.ringWriteError_eq (s := s.completed k) hwho hinc
  rw [hst] at herr
  have hbefore : (if ok = false then (s.completed k).ringWriteError e .issued else s.completed k) =
      { s.completed k with ring := if ok = true then s.ring else s.ring.postEvent e.writeError } := by
    cases ok with
    | true => rfl
    | false => exact herr
  cases ref with
  | fetch i => exact absurd rfl (hfetch i)
  | response idx last =>
    simp only [State.completeIssued, hwho, State.completeRing, htag, hkind, and_true, State.heard_freeEntry, hbefore]
  | taken | status _ | attachResult =>
    simp only [State.completeIssued, hwho, State.completeRing, htag, hkind, and_true, State.heard_freeEntry, hbefore]
    rfl

/-! ## The ends of RING's requests -/

/-- The references of RING whose end does nothing at the Ring Interface. -/
def RequesterTag.endsQuietly (tag : RequesterTag) : Prop :=
  tag = .ring .taken ∨ tag = .ring .attachResult ∨ (∃ u, tag = .ring (.status u)) ∨ (∃ i, tag = .ring (.fetch i))

theorem Ring.ended_quiet (r : Ring) {ref : RingRef} (h : (RequesterTag.ring ref).endsQuietly) : r.ended ref = r := by
  rcases h with h | h | ⟨u, h⟩ | ⟨i, h⟩ <;> cases h <;> rfl

theorem Ring.ended_response (r : Ring) (i : Fin 256) (last : Bool) :
    r.ended (.response i.val last) = r.responseEnded i last := Ring.responseDone_eq r i last

/-- Settles O32, by the state that the completion finds its entry in. -/
theorem lateAndFailedCompletions : Obligations.LateAndFailedCompletions := by
  intro s k ok data
  refine ⟨fun n hwho hst => ?_, fun n hwho hkind hfound => ?_, fun hwho hkind hinc hfound => ?_, fun hwho hst => ?_,
    fun hfreed => ?_⟩
  · rw [exec_completeLate hst, State.completeLate_slot hwho hst]
    refine ⟨fun hheld => ?_, fun hheld hquiet => ?_, fun hheld hok hkind => ?_⟩
    · rw [if_pos hheld]
    · rw [if_neg hheld, if_neg hquiet]
    · rw [if_neg hheld, if_pos ⟨hok, hkind⟩]
  · rcases hfound with hst | ⟨hst, hatt⟩
    · rw [exec_completeIssued hst, State.completeIssued_slotWrite hwho hst hkind]
    · rw [exec_completeOrphan hst, State.completeOrphan_slot hwho hst hkind hatt]
  · refine ⟨fun i last hst htag => ?_, fun htag => ?_⟩
    · rw [exec_completeIssued hst,
        State.completeIssued_ringWrite hwho hst hinc hkind htag (fun _ h => nomatch h), Ring.ended_response]
    · have hring :
          (if ok = true then s.completed k else { s.completed k with ring := s.ring.postEvent (s.entry k).writeError }) =
            { s.completed k with ring := if ok = true then s.ring else s.ring.postEvent (s.entry k).writeError } := by
        cases ok <;> rfl
      by_cases hst : (s.entry k).state = .issued
      · have hquiet : ∃ ref, (s.entry k).tag = .ring ref ∧ (RequesterTag.ring ref).endsQuietly ∧ ∀ i, ref ≠ .fetch i := by
          rcases htag with h | h | h | ⟨u, h⟩
          · exact absurd hst h
          · exact ⟨_, h, Or.inl rfl, fun _ h => nomatch h⟩
          · exact ⟨_, h, Or.inr (Or.inl rfl), fun _ h => nomatch h⟩
          · exact ⟨_, h, Or.inr (Or.inr (Or.inl ⟨u, rfl⟩)), fun _ h => nomatch h⟩
        obtain ⟨ref, htag, hends, hfetch⟩ := hquiet
        rw [exec_completeIssued hst, State.completeIssued_ringWrite hwho hst hinc hkind htag hfetch,
          Ring.ended_quiet _ hends]
      · rcases hfound with h | ⟨horphan, hatt⟩
        · have hlate : (s.entry k).state = .late := by
            simp only [List.mem_cons, List.not_mem_nil, or_false] at h
            exact h.resolve_left hst
          rw [exec_completeLate hlate, State.completeLate_ring hwho hlate hinc ok hkind, hring]
        · rw [exec_completeOrphan horphan, State.completeOrphan_ring hwho horphan hinc hkind hatt, hring]
  · rw [exec_completeIssued hst]
    simp only [State.completeIssued, hwho, State.heard_freeEntry]
    rfl
  · rcases hfreed with ⟨hst, hfreed⟩ | ⟨hst, hfreed⟩
    · rw [exec_completeLate hst, State.completeLate_freed hfreed]
    · rw [exec_completeOrphan hst, State.completeOrphan_freed hfreed]

/-! ## The deadline of an entry (R121) -/

theorem exec_completionTimeout {s : State} {k : MemTag} (hst : (s.entry k).state = .issued) :
    exec (.completionTimeout k) s = .next ((s.reach (s.entry k).deadline).deadlinePassed k (s.entry k)) :=
  congrArg Host.Outcome.next (if_pos hst)

/-- The deadline of an ISSUED slot entry counts in TIMEOUT, and answers a read that the slot can take or keep. -/
theorem State.deadlinePassed_read {s : State} {k : MemTag} {n : SlotId} {e : Entry} {tag : BladeTag}
    (hwho : e.who = .slot n) (hkind : e.kind = .read) (htag : e.tag = .blade tag) :
    s.deadlinePassed k e =
      if (s.slot n).canReceive = true then
        (s.setEntry k { e with state := .late }).withSlot n { s.slot n with
          dataOut := (s.slot n).dataOut ++ [⟨tag, .timeout, []⟩]
          tags := (s.slot n).tags.set tag.val false tag.isLt
          counters := (s.slot n).counters.addTimeout }
      else if (s.slot n).state = .grace then
        (s.setEntry k { e with state := .late, held := .timeout }).withSlot n { s.slot n with
          counters := (s.slot n).counters.addTimeout, holdList := (s.slot n).holdList ++ [k] }
      else (s.setEntry k { e with state := .late }).withSlot n
        { s.slot n with counters := (s.slot n).counters.addTimeout } := by
  simp only [State.deadlinePassed, hwho, State.slotTimeout, hkind, htag, State.count_eq_withSlot, State.withSlot_setEntry]
  split
  · rw [State.sendData_eq_withSlot, State.withSlot_slot_self, State.withSlot_withSlot]
    rfl
  · split
    · rw [State.hold_eq_withSlot, State.withSlot_slot_self, State.withSlot_withSlot]
    · rfl

theorem State.deadlinePassed_write {s : State} {k : MemTag} {n : SlotId} {e : Entry} (hwho : e.who = .slot n)
    (hkind : e.kind = .write) :
    s.deadlinePassed k e = (s.setEntry k { e with state := .late }).withSlot n
      { s.slot n with counters := (s.slot n).counters.addTimeout } := by
  simp only [State.deadlinePassed, hwho, State.slotTimeout, hkind, State.count_eq_withSlot, State.withSlot_setEntry]

theorem State.deadlinePassed_ring {s : State} {k : MemTag} {e : Entry} {ref : RingRef} (hwho : e.who = .ring)
    (htag : e.tag = .ring ref) :
    s.deadlinePassed k e = { s.setEntry k { e with state := .late } with ring := s.ring.ended ref } := by
  simp only [State.deadlinePassed, hwho, htag, State.setEntry_ring]

/-- Settles O33, by the requester of the entry. -/
theorem deadlineAnswersTimeout : Obligations.DeadlineAnswersTimeout := by
  intro s k
  refine ⟨fun hst => congrArg Host.Outcome.next (if_neg hst), fun hst => ?_⟩
  rw [exec_completionTimeout hst]
  refine ⟨fun n hwho => ⟨fun tag hkind htag => ?_, fun hkind => ?_⟩, fun hwho => ⟨fun tag htag => ?_, fun f htag => ?_⟩,
    fun hwho => ⟨fun i last htag => ?_, fun htag => ?_⟩, fun hwho => ?_⟩
  · rw [State.deadlinePassed_read hwho hkind htag, ← Slot.canReceive_iff]
    refine ⟨fun hrec => ?_, fun hgrace => ?_, fun hrec hgrace => ?_⟩
    · rw [if_pos hrec]
    · have hno : ¬ ((s.reach (s.entry k).deadline).slot n).canReceive = true := by
        simp [Slot.canReceive, SlotState.traffic, hgrace]
      rw [if_neg hno, if_pos hgrace]
    · rw [if_neg hrec, if_neg hgrace]
  · rw [State.deadlinePassed_write hwho hkind]
  · simp only [State.deadlinePassed, hwho, htag]
    rfl
  · simp only [State.deadlinePassed, hwho, htag]
  · rw [State.deadlinePassed_ring hwho htag, Ring.ended_response]
  · have hquiet : ∃ ref, (s.entry k).tag = .ring ref ∧ (RequesterTag.ring ref).endsQuietly := by
      rcases htag with h | h | ⟨u, h⟩ | ⟨i, h⟩
      · exact ⟨_, h, Or.inl rfl⟩
      · exact ⟨_, h, Or.inr (Or.inl rfl)⟩
      · exact ⟨_, h, Or.inr (Or.inr (Or.inl ⟨u, rfl⟩))⟩
      · exact ⟨_, h, Or.inr (Or.inr (Or.inr ⟨i, rfl⟩))⟩
    obtain ⟨ref, htag, hends⟩ := hquiet
    rw [State.deadlinePassed_ring hwho htag, Ring.ended_quiet _ hends]
    rfl
  · simp only [State.deadlinePassed, hwho]
    rfl

end Sys2Proof.Machine
end

section
/-! The take of the held record (R184), and the requests that name a slot (R12, R13, R15, R20, R22, R36, R42, R90, R135, R138,
R139, R146). -/

namespace Sys2Proof.Machine

/-! ## Answers -/

/-- The response to a request whose slot byte is echoed as read. -/
theorem Request.answer_of_kind {r : Request} (hkind : r.kind.toNat ∉ [8, 9, 12]) (st : Status) (res : Result) :
    r.answer st res = ⟨st, r.slot, r.kind, r.seq, res⟩ := by
  rw [Request.answer, Request.echoSlot_of_kind hkind]

theorem State.answer_of_executing {s : State} {r : Request} {kind : Nat} (h : s.executing r kind)
    (hkind : kind ∉ [8, 9, 12]) (st : Status) (res : Result) : r.answer st res = ⟨st, r.slot, r.kind, r.seq, res⟩ :=
  Request.answer_of_kind (h.2 ▸ hkind) st res

theorem State.refuse_of_executing {s : State} {r : Request} {kind : Nat} (h : s.executing r kind)
    (hkind : kind ∉ [8, 9, 12]) (st : Status) :
    s.refuse r st = s.answeredWith ⟨st, r.slot, r.kind, r.seq, .nothing⟩ :=
  congrArg s.answeredWith (State.answer_of_executing h hkind st .nothing)

theorem State.badField_of_executing {s : State} {r : Request} {kind : Nat} (h : s.executing r kind)
    (hkind : kind ∉ [8, 9, 12]) (field : Nat) :
    s.badField r field = s.answeredWith ⟨.badField, r.slot, r.kind, r.seq, .field field⟩ :=
  congrArg s.answeredWith (State.answer_of_executing h hkind .badField (.field field))

theorem State.accept_of_executing {s : State} {r : Request} {kind : Nat} (h : s.executing r kind)
    (hkind : kind ∉ [8, 9, 12]) (n : SlotId) :
    s.accept r n = s.answeredWith ⟨.accepted, r.slot, r.kind, r.seq, .incarnation (s.slot n).incarnation⟩ :=
  congrArg s.answeredWith (State.answer_of_executing h hkind .accepted _)

/-- A slot changed once the request is answered. -/
theorem slotBecomes.after_answer {n : SlotId} {s t : State} {a : Response} {sl : Slot}
    (h : slotBecomes n (s.answeredWith a) t sl) : t.slot n = sl ∧ keepsAllBut n s t ∧ ringAnswered s.ring t.ring a := by
  obtain ⟨hslot, hkeeps, hring⟩ := h
  exact ⟨hslot, hkeeps, ringNoticed_eq hring⟩

/-- The Ring Interface with the request in execution answered. -/
def Ring.answered (r : Ring) (a : Response) : Ring :=
  { r with pend := r.pend ++ [.response a], reserved := r.reserved - 1, exec := none }

theorem State.answeredWith_ring (s : State) (a : Response) : (s.answeredWith a).ring = s.ring.answered a := rfl

/-- The request answered once units of the status block have become stale. -/
theorem ringAnswered_of_stale {s u : State} (h : u.ring = { s.ring with stale := u.ring.stale }) (a : Response) :
    ringAnswered s.ring (u.answeredWith a).ring a :=
  congrArg (Ring.answered · a) h

/-- The request answered once the slot is changed. -/
theorem slotBecomes.answered {n : SlotId} {s u : State} {sl : Slot} (h : slotBecomes n s u sl) (a : Response) :
    (u.answeredWith a).slot n = sl ∧ keepsAllBut n s (u.answeredWith a) ∧
      ringAnswered s.ring (u.answeredWith a).ring a := by
  obtain ⟨hslot, hkeeps, hring⟩ := h
  exact ⟨hslot, hkeeps, ringAnswered_of_stale (ringNoticed_eq hring) a⟩

/-! ## The take of the held record (R184) -/

theorem Request.kindOk_iff (q : Request) : q.kindOk = false ↔ q.kind.toNat = 0 ∨ 12 < q.kind.toNat := by
  simp only [Request.kindOk, decide_eq_false_iff_not]
  omega

theorem Request.namesSlot_iff (q : Request) : q.namesSlot = true ↔ q.kind.toNat ∈ [1, 2, 3, 4, 5, 6, 7, 10, 11] :=
  List.contains_iff_mem

theorem Request.slotId_eq_none_iff (q : Request) : q.slotId = none ↔ q.slot.toNat = 0 ∨ 14 < q.slot.toNat := by
  unfold Request.slotId
  split
  next h => simp; omega
  next h => simp; omega

/-- A record that is taken is judged by its kind, and then by its slot where its kind names one. -/
theorem State.judge_eq (s : State) (q : Request) :
    s.judge q =
      if q.kind.toNat = 0 ∨ 12 < q.kind.toNat then s.answeredWith ⟨.badRequest, q.slot, q.kind, q.seq, .nothing⟩
      else if q.kind.toNat ∈ [1, 2, 3, 4, 5, 6, 7, 10, 11] ∧ (q.slot.toNat = 0 ∨ 14 < q.slot.toNat) then
        s.answeredWith ⟨.badSlot, q.slot, q.kind, q.seq, .nothing⟩
      else s := by
  simp only [State.judge, Request.kindOk_iff, Request.namesSlot_iff, Request.slotId_eq_none_iff]
  split
  next hkind =>
    have hecho : q.kind.toNat ∉ [8, 9, 12] := by
      simp only [List.mem_cons, List.not_mem_nil, or_false]
      omega
    exact congrArg s.answeredWith (Request.answer_of_kind hecho .badRequest .nothing)
  next =>
    split
    next hslot =>
      have hecho : q.kind.toNat ∉ [8, 9, 12] := by
        obtain ⟨hnames, -⟩ := hslot
        simp only [List.mem_cons, List.not_mem_nil, or_false] at hnames ⊢
        omega
      exact congrArg s.answeredWith (Request.answer_of_kind hecho .badSlot .nothing)
    next => rfl

/-- Two places are at hand, so TAKEN and the read-ahead are both queued. -/
theorem Ring.take_eq {r : Ring} (q : Request) (hqueue : r.queue.length ≤ 14) (hwait : r.waiting = []) :
    r.take q = { r with
      reserved := r.reserved + 1
      queue := r.queue ++ [.taken r.consumer, .fetch ((r.consumer + 1) % r.reqSize)]
      consumer := (r.consumer + 1) % r.reqSize, held := none, exec := some q } := by
  have hfirst : r.enqueue (.taken r.consumer) = { r with queue := r.queue ++ [.taken r.consumer] } :=
    if_pos ⟨by omega, hwait⟩
  have hsecond (op : RingOp) : ({ r with queue := r.queue ++ [.taken r.consumer] } : Ring).enqueue op =
      { r with queue := r.queue ++ [.taken r.consumer, op] } := by
    rw [Ring.enqueue, if_pos ⟨by simp; omega, hwait⟩, List.append_assoc]
    rfl
  rw [Ring.take, hfirst, hsecond]

/-- Settles O38. -/
theorem requestIsTaken : Obligations.RequestIsTaken := by
  intro s q hatt hheld hexec hplace hwait hqueue
  have hdue : s.ring.takeDue = true := by
    simp only [Ring.takeDue, hatt, hheld, hexec, Option.isSome_some, true_and, decide_true, hplace]
  have hfree : 2 ≤ s.ring.freePlaces := by
    rw [Ring.freePlaces, if_pos hwait]
    omega
  have htake : s.takeHeld = ({ s with ring := s.ring.take q } : State).judge q := by
    rw [State.takeHeld, hheld]
    exact if_pos ⟨hdue, hfree⟩
  refine congrArg Host.Outcome.next (htake.trans ?_)
  rw [Ring.take_eq q hqueue hwait]
  exact State.judge_eq _ q

/-! ## A request refused for its slot's state (R12, R36) -/

theorem Slot.takesSideband_iff (sl : Slot) :
    sl.takesSideband = true ↔
      sl.state ∈ [.identifying, .pending, .probing, .settling, .live, .holding, .held, .grace] ∨
        (sl.state = .retiring ∧ sl.pwrEn = true) := by
  cases h : sl.state <;> simp [Slot.takesSideband, h]

/-- Settles O39, kind by kind. -/
theorem requestsAreRefusedByState : Obligations.RequestsAreRefusedByState := by
  intro s r n hnames
  refine ⟨fun h hst => ?_, fun h hst => ?_, fun h hp hh => ?_, fun h hst => ?_, fun h hst => ?_, fun h hst => ?_,
    fun h hr hf => ?_, fun h hst _ => ?_⟩
  · refine congrArg Host.Outcome.next ((State.slotRequest_of_executing h hnames s.admitSlot).trans ?_)
    rw [State.admitSlot, if_pos hst, State.refuse_of_executing h (by decide)]
  · refine congrArg Host.Outcome.next ((State.slotRequest_of_executing h hnames s.stageSlot).trans ?_)
    rw [State.stageSlot, if_pos hst, State.refuse_of_executing h (by decide)]
  · refine congrArg Host.Outcome.next ((State.slotRequest_of_executing h hnames s.commitSlot).trans ?_)
    rw [State.commitSlot, if_pos ⟨hp, hh⟩, State.refuse_of_executing h (by decide)]
  · refine congrArg Host.Outcome.next ((State.slotRequest_of_executing h hnames s.holdSlot).trans ?_)
    rw [State.holdSlot, if_pos hst, State.refuse_of_executing h (by decide)]
  · refine congrArg Host.Outcome.next ((State.slotRequest_of_executing h hnames s.resumeSlot).trans ?_)
    rw [State.resumeSlot, if_pos hst, State.refuse_of_executing h (by decide)]
  · have hno : (s.slot n).state.retirable = false := by
      simp only [List.mem_cons, List.not_mem_nil, or_false] at hst
      rcases hst with h | h | h | h | h | h <;> rw [h] <;> rfl
    refine congrArg Host.Outcome.next ((State.slotRequest_of_executing h hnames s.retireRequest).trans ?_)
    rw [State.retireRequest, if_pos hno, State.refuse_of_executing h (by decide)]
  · refine congrArg Host.Outcome.next ((State.slotRequest_of_executing h hnames s.restartSlot).trans ?_)
    rw [State.restartSlot, if_pos ⟨hr, hf⟩, State.refuse_of_executing h (by decide)]
  · have hno : (s.slot n).takesSideband = false := by
      rw [← Bool.not_eq_true, Slot.takesSideband_iff]
      rcases hst with hst | ⟨hst, hpwr⟩
      · simp only [List.mem_cons, List.not_mem_nil, or_false] at hst
        rcases hst with h | h | h | h | h | h <;> simp [h]
      · simp [hst, hpwr]
    refine congrArg Host.Outcome.next ((State.slotRequest_of_executing h hnames s.sidebandSlot).trans ?_)
    rw [State.sidebandSlot, if_pos hno]
    exact congrArg s.answeredWith (State.answer_of_executing h (by decide) _ _)

/-! ## ADMIT (R13, R42, R44) -/

/-- Settles O40, by the three checks in order. -/
theorem admitOpensTheProbe : Obligations.AdmitOpensTheProbe := by
  intro s r n h hnames hst
  have hexec : exec .admission s = .next (match admitField (s.slot n) r with
      | some k => s.badField r k
      | none => (s.modSlot n fun sl => sl.admitted r.p4.toNat r.p5.toNat s.now s.params.probeLimit).accept r n) := by
    refine congrArg Host.Outcome.next ((State.slotRequest_of_executing h hnames s.admitSlot).trans ?_)
    unfold State.admitSlot
    exact (if_neg (not_not.mpr hst)).trans rfl
  have fails {f : Nat} (hf : admitField (s.slot n) r = some f) :
      exec .admission s = .next (s.answeredWith ⟨.badField, r.slot, r.kind, r.seq, .field f⟩) := by
    rw [hexec, hf, ← State.badField_of_executing h (by decide)]
  refine ⟨fun hcredit => fails ?_, fun hlo hhi hbeats => fails ?_, fun hlo hhi hblo hbhi hid => fails ?_,
    fun hlo hhi hblo hbhi hid => ?_⟩
  · rw [admitField, if_pos (by omega)]
  · rw [admitField, if_neg (by omega), if_pos (by omega)]
  · rw [admitField, if_neg (by omega), if_neg (by omega), if_pos hid]
  · have hpass : admitField (s.slot n) r = none := by
      rw [admitField, if_neg (by omega), if_neg (by omega), if_neg (by omega)]
    have hbecomes := slotBecomes_modSlot n s fun sl => sl.admitted r.p4.toNat r.p5.toNat s.now s.params.probeLimit
    obtain ⟨hslot, hkeeps, hring⟩ := hbecomes.answered
      ⟨.accepted, r.slot, r.kind, r.seq, .incarnation ((s.slot n).incarnation + 1)⟩
    have hinc : ((s.modSlot n fun sl => sl.admitted r.p4.toNat r.p5.toNat s.now s.params.probeLimit).slot n).incarnation =
        (s.slot n).incarnation + 1 := congrArg Slot.incarnation hbecomes.1
    rw [hpass] at hexec
    dsimp only at hexec
    rw [State.accept, hinc, State.answer_of_executing h (by decide)] at hexec
    exact ⟨_, hexec, rfl, hslot, hkeeps, hring⟩

/-! ## STAGE (R90) -/

/-- Two bytes read as a half-word, the lower one first (11.3). -/
theorem toNat_append_bytes (high low : Byte) : (high ++ low : Half).toNat = low.toNat + 256 * high.toNat := by
  rw [BitVec.toNat_append, Nat.shiftLeft_eq, Nat.mul_comm, ← Nat.two_pow_add_eq_or_of_lt low.isLt]
  omega

/-- Settles O41, by the four checks in order. -/
theorem stageWritesOneEntry : Obligations.StageWritesOneEntry := by
  intro s r n h hnames hst
  have hexec : exec .stage s = .next (match stageField r with
      | some k => s.badField r k
      | none => (s.modSlot n fun sl => sl.staged r).finish
          (r.answer .ok (.staged (mapEntries ((s.modSlot n fun sl => sl.staged r).slot n).staging).length))) := by
    refine congrArg Host.Outcome.next ((State.slotRequest_of_executing h hnames s.stageSlot).trans ?_)
    unfold State.stageSlot
    exact (if_neg hst).trans rfl
  have fails {f : Nat} (hf : stageField r = some f) :
      exec .stage s = .next (s.answeredWith ⟨.badField, r.slot, r.kind, r.seq, .field f⟩) := by
    rw [hexec, hf, ← State.badField_of_executing h (by decide)]
  refine ⟨fun hidx => fails ?_, fun hidx h1 h2 => fails ?_, fun hidx h1 hpage => fails ?_,
    fun hidx h1 hpage ha hb => fails ?_, fun e hidx hop => ?_⟩
  · rw [stageField, if_pos (by omega)]
  · rw [stageField, if_neg (by omega), if_neg h2, if_pos h1]
  · rw [stageField, if_neg (by omega), if_neg (by omega), if_neg (by omega), if_pos (by omega)]
  · rw [stageField, if_neg (by omega), if_neg (by omega), if_neg (by omega), if_neg (by omega), if_pos ⟨ha, hb⟩]
  · have hpass : stageField r = none ∧ stageEntry r = e := by
      rcases hop with ⟨hclear, rfl⟩ | ⟨hset, hpage, haccess, rfl⟩
      · refine ⟨?_, if_neg (by omega)⟩
        rw [stageField, if_neg (by omega), if_pos hclear]
      · refine ⟨?_, ?_⟩
        · rw [stageField, if_neg (by omega), if_neg (by omega), if_neg (by omega), if_neg (by omega), if_neg (by omega)]
        · have hfin : Fin.ofNat 32 r.p6.toNat = ⟨r.p6.toNat, hpage⟩ := Fin.ext (Nat.mod_eq_of_lt hpage)
          rw [stageEntry, if_pos hset, hfin, Request.extentAt8, toNat_append_bytes]
    obtain ⟨hfield, hentry⟩ := hpass
    have hbecomes : slotBecomes n s (s.modSlot n fun sl => sl.staged r)
        { s.slot n with staging := (s.slot n).staging.setIfInBounds r.p4.toNat e } :=
      hentry ▸ slotBecomes_modSlot n s fun sl => sl.staged r
    obtain ⟨hslot, hkeeps, hring⟩ := hbecomes.answered ⟨.ok, r.slot, r.kind, r.seq,
      .staged (mapEntries ((s.modSlot n fun sl => sl.staged r).slot n).staging).length⟩
    rw [hfield] at hexec
    dsimp only at hexec
    rw [State.answer_of_executing h (by decide)] at hexec
    exact ⟨_, hexec, rfl, hkeeps, hslot, hring⟩

/-! ## HOLD and RESUME (R15, R64, R65, R135, R138) -/

/-- Settles O43. -/
theorem holdClosesIntake : Obligations.HoldClosesIntake := by
  intro s r n h hnames hst
  have hexec : exec .hold s = .next (((s.answeredWith
      ⟨.accepted, r.slot, r.kind, r.seq, .incarnation (s.slot n).incarnation⟩).modSlot n fun sl =>
        { sl with
          state := .holding, intake := .closed,
          timer := .running s.now (s.params.holdLimit * 1000) }).settleHolding n) := by
    refine congrArg Host.Outcome.next ((State.slotRequest_of_executing h hnames s.holdSlot).trans ?_)
    rw [State.holdSlot, if_neg (not_not.mpr hst), State.accept_of_executing h (by decide)]
  generalize ha : (⟨.accepted, r.slot, r.kind, r.seq, .incarnation (s.slot n).incarnation⟩ : Response) = a at hexec ⊢
  have hbecomes := slotBecomes_modSlot n (s.answeredWith a) fun sl =>
    { sl with state := .holding, intake := .closed, timer := .running s.now (s.params.holdLimit * 1000) }
  refine ⟨fun hbusy => ?_, fun hin hflight => ?_⟩
  · have hnot : ¬ ((s.answeredWith a).modSlot n fun sl =>
        { sl with
          state := .holding, intake := .closed,
          timer := .running s.now (s.params.holdLimit * 1000) }).drained n = true := fun hd => by
      obtain ⟨hin, hflight⟩ := State.of_drained hd
      rw [State.modSlot_slot_self] at hin
      exact hbusy.elim (fun h => h hin) fun h => h ((State.inFlight_eq_zero_iff s n).mpr hflight)
    rw [State.settleHolding, if_neg hnot] at hexec
    obtain ⟨hslot, hkeeps, hring⟩ := hbecomes.after_answer
    exact ⟨_, hexec, rfl, hslot, hkeeps, hring⟩
  · have hdrained : ((s.answeredWith a).modSlot n fun sl =>
        { sl with
          state := .holding, intake := .closed,
          timer := .running s.now (s.params.holdLimit * 1000) }).drained n = true :=
      State.drained_eq_true (by simpa using hin) hflight
    rw [State.settleHolding, if_pos hdrained] at hexec
    have hheld := slotBecomes_modSlot_twice n (s.answeredWith a)
      (fun sl => { sl with state := .holding, intake := .closed, timer := .running s.now (s.params.holdLimit * 1000) })
      fun sl => { sl with state := .held, timer := .stopped }
    obtain ⟨hslot, hkeeps, hring⟩ := hheld.after_answer
    refine ⟨_, hexec, rfl, hslot, keepsAllBut_trans hkeeps (keepsAllBut_postEvent n _ _), _, hring, ?_⟩
    have hinc : (((s.answeredWith a).modSlot n fun sl =>
        { sl with
          state := .holding, intake := .closed,
          timer := .running s.now (s.params.holdLimit * 1000) }).slot n).incarnation = (s.slot n).incarnation := by
      simp
    rw [State.completeHold, hinc]
    rfl

/-- Settles O44: the intake reopened, what the link held back, and then the response. -/
theorem resumeReopensIntake : Obligations.ResumeReopensIntake := by
  intro s r n h hnames hst hup
  have hexec : exec .resume s = .next (((s.modSlot n fun sl => { sl with state := .live }).reopen n .translated).answeredWith
      ⟨.ok, r.slot, r.kind, r.seq, .nothing⟩) := by
    refine congrArg Host.Outcome.next ((State.slotRequest_of_executing h hnames s.resumeSlot).trans ?_)
    rw [State.resumeSlot, if_neg (not_not.mpr hst), State.answer_of_executing h (by decide), State.finish_eq_answeredWith]
  have hgranted := Slot.regrant_of_up
    (sl := { s.slot n with state := .live, intake := .translated, heldBack := [] }) hup (Or.inl rfl)
  have hbecomes : slotBecomes n s ((s.modSlot n fun sl => { sl with state := .live }).opened n .translated)
      { s.slot n with
        state := .live, intake := .translated, placesOpen := (s.slot n).freePlaces, heldBack := [] } :=
    Eq.subst (motive := slotBecomes n s _) hgranted
      (slotBecomes_modSlot_twice n s (fun sl => { sl with state := .live })
        fun sl => Slot.regrant { sl with intake := .translated, heldBack := [] })
  have hheld : ((s.modSlot n fun sl => { sl with state := .live }).slot n).heldBack = (s.slot n).heldBack := by simp
  refine ⟨fun hnone => ?_, fun hen => ?_⟩
  · have hreopen : (s.modSlot n fun sl => { sl with state := .live }).reopen n .translated =
        (s.modSlot n fun sl => { sl with state := .live }).opened n .translated := by
      rw [State.reopen, hheld, hnone]
      rfl
    obtain ⟨hslot, hkeeps, hring⟩ := hbecomes.answered ⟨.ok, r.slot, r.kind, r.seq, .nothing⟩
    rw [hreopen] at hexec
    have hkept : ({ s.slot n with
        state := .live, intake := .translated, placesOpen := (s.slot n).freePlaces, heldBack := [] } : Slot) =
          { s.slot n with state := .live, intake := .translated, placesOpen := (s.slot n).freePlaces } := by
      rw [← hnone]
    exact ⟨_, hexec, rfl, hslot.trans hkept, hkeeps, hring⟩
  · have harrives := State.reopen_arrives (s := s.modSlot n fun sl => { sl with state := .live }) (n := n) .translated (by
      simp [State.carries, Slot.linkCarries, hen, hup])
    rw [hheld] at harrives
    exact ⟨(s.modSlot n fun sl => { sl with state := .live }).opened n .translated, _, hexec, rfl, hbecomes, harrives⟩

/-! ## RETIRE and RESTART (R10, R20, R22, R33, R77, R133, R139, R146, R164) -/

/-- Settles O45, from the retirement of a slot by its state. -/
theorem retireEndsOrFences : Obligations.RetireEndsOrFences := by
  intro s r n h hnames
  have hexec (hst : (s.slot n).state.retirable = true) : exec .retire s = .next ((s.answeredWith
      ⟨.accepted, r.slot, r.kind, r.seq, .incarnation (s.slot n).incarnation⟩).retireSlot n) := by
    refine congrArg Host.Outcome.next ((State.slotRequest_of_executing h hnames s.retireRequest).trans ?_)
    rw [State.retireRequest, if_neg (by rw [hst]; decide), State.accept_of_executing h (by decide)]
  generalize (⟨.accepted, r.slot, r.kind, r.seq, .incarnation (s.slot n).incarnation⟩ : Response) = a at hexec ⊢
  have htraffic (hst : (s.slot n).state ∈ [.settling, .live, .holding, .held]) : (s.slot n).state.retirable = true := by
    simp only [List.mem_cons, List.not_mem_nil, or_false] at hst
    rcases hst with h | h | h | h <;> rw [h] <;> rfl
  refine ⟨fun hst => ?_, fun hst hbusy hen hup => ?_, fun hst hin hflight => ?_, fun hst => ?_⟩
  · have hretires : (s.slot n).state.retirable = true := by
      have hcases := hst
      simp only [List.mem_cons, List.not_mem_nil, or_false] at hcases
      rcases hcases with h | h | h | h <;> rw [h] <;> rfl
    exact ⟨_, hexec hretires, State.retireSlot_before_traffic (s := s.answeredWith a) hst⟩
  · obtain ⟨u, hnow, hbecomes, harrives⟩ := State.retireSlot_fenced (s := s.answeredWith a) hst hbusy hen hup
    exact ⟨u, _, hexec (htraffic hst), hnow, hbecomes, harrives⟩
  · exact ⟨_, hexec (htraffic hst), State.retireSlot_drained (s := s.answeredWith a) hst hin hflight⟩
  · exact ⟨_, hexec (by rw [hst]; rfl), State.retireSlot_grace (s := s.answeredWith a) hst⟩

/-- Settles O46, by the level of PWR_GOOD. -/
theorem restartPowers : Obligations.RestartPowers := by
  intro s r n h hnames hst
  have hnot : ¬ ((s.slot n).state ≠ .retired ∧ (s.slot n).state ≠ .faulted) := fun ⟨hr, hf⟩ => hst.elim hr hf
  have hexec : exec .restart s = .next (((s.answeredWith
      ⟨.accepted, r.slot, r.kind, r.seq, .incarnation (s.slot n).incarnation⟩).modSlot n fun sl =>
        { sl with fault := none, identityOk := false, forced := false }).powerUp n) := by
    refine congrArg Host.Outcome.next ((State.slotRequest_of_executing h hnames s.restartSlot).trans ?_)
    rw [State.restartSlot, if_neg hnot, State.accept_of_executing h (by decide)]
  generalize (⟨.accepted, r.slot, r.kind, r.seq, .incarnation (s.slot n).incarnation⟩ : Response) = a at hexec ⊢
  refine ⟨fun hgood => ?_, fun hgood => ?_⟩
  · rw [State.powerUp_low (by simpa using hgood)] at hexec
    have hbecomes := slotBecomes_modSlot_twice n (s.answeredWith a)
      (fun sl => { sl with fault := none, identityOk := false, forced := false })
      fun sl => { sl with
        state := .powering, pwrEn := true, removeOk := false, timer := .running s.now (s.params.powerLimit * 1000) }
    obtain ⟨hslot, hkeeps, hring⟩ := hbecomes.after_answer
    exact ⟨_, hexec, rfl, hslot, hkeeps, hring⟩
  · rw [State.powerUp_high (by simpa using hgood), State.identify] at hexec
    have hbecomes := slotBecomes_trans (slotBecomes_modSlot_twice n (s.answeredWith a)
        (fun sl => { sl with fault := none, identityOk := false, forced := false })
        fun sl => { sl with
          state := .powering, pwrEn := true, removeOk := false, timer := .running s.now (s.params.powerLimit * 1000) })
      (slotBecomes_modSlot n _ fun sl => { sl with state := .identifying, timer := .stopped })
    rw [State.modSlot_slot_self, State.modSlot_slot_self] at hbecomes
    obtain ⟨hidentifies, hring⟩ := identifies_of hbecomes rfl rfl
    exact ⟨_, hexec, hidentifies, ringNoticed_eq hring⟩

/-! ## SIDEBAND (R30 to R32, R36, R184) -/

/-- Settles O48, by the checks in order. -/
theorem sidebandRequestIsQueued : Obligations.SidebandRequestIsQueued := by
  intro s r n h hnames hst
  have htakes : ¬ (s.slot n).takesSideband = false := by
    rw [Bool.not_eq_false, Slot.takesSideband_iff]
    exact hst
  have hexec : exec .sideband s = .next (match sidebandField r with
      | some k => s.badField r k
      | none =>
        if 16 ≤ s.sb.queue.length ∨ s.sb.waiting ≠ [] then s.refuse r .busy
        else ({ s with
          sb := { s.sb with queue := s.sb.queue ++ [sidebandJob r n] }
          ring := { s.ring with exec := none } } : State).startJob) := by
    refine congrArg Host.Outcome.next ((State.slotRequest_of_executing h hnames s.sidebandSlot).trans ?_)
    unfold State.sidebandSlot
    exact (if_neg htakes).trans rfl
  have fails {f : Nat} (hf : sidebandField r = some f) :
      exec .sideband s = .next (s.answeredWith ⟨.badField, r.slot, r.kind, r.seq, .field f⟩) := by
    rw [hexec, hf, ← State.badField_of_executing h (by decide)]
  have passes (hdir : r.p4.toNat = 1 ∨ (r.p4.toNat = 2 ∧ 8 ≤ r.p5.toNat)) (hreg : r.p5.toNat ≤ 31) :
      sidebandField r = none := by
    rw [sidebandField, if_neg (by omega), if_neg (by omega), if_neg (by omega)]
  refine ⟨fun h1 h2 => fails ?_, fun hdir hreg => ?_, fun hdir hreg hbusy => ?_, fun hdir hreg hplace hwait => ?_⟩
  · rw [sidebandField, if_pos ⟨h1, h2⟩]
  · apply fails
    rw [sidebandField, if_neg (by omega)]
    rcases hreg with hreg | ⟨hwrite, hreg⟩
    · rw [if_pos hreg]
    · rw [if_neg (by omega), if_pos ⟨hwrite, hreg⟩]
  · rw [hexec, passes hdir hreg]
    dsimp only
    rw [if_pos hbusy, State.refuse_of_executing h (by decide)]
  · refine ⟨_, _, hexec, rfl, ?_⟩
    rw [passes hdir hreg]
    dsimp only
    rw [if_neg (by simp [hwait]; omega), State.startJob_eq]
    rfl

end Sys2Proof.Machine
end

section
/-! The requests on extents: COMMIT (R85, R88, R92 to R95, R99), PUBLISH and WITHDRAW (R97, R98). -/

namespace Sys2Proof.Machine

/-! ## Extents' records alone -/

/-- Nothing differs but extents' records and the stale marks. -/
def State.reExtents (s u : State) : Prop :=
  ∃ records stale, u = { s with ext := { s.ext with records := records }, ring := { s.ring with stale := stale } }

theorem State.reExtents_refl (s : State) : s.reExtents s := ⟨s.ext.records, s.ring.stale, rfl⟩

theorem State.reExtents.trans {s u v : State} (h : s.reExtents u) (k : u.reExtents v) : s.reExtents v := by
  obtain ⟨_, _, rfl⟩ := h
  obtain ⟨records, stale, rfl⟩ := k
  exact ⟨records, stale, rfl⟩

theorem State.reExtents_setExtent (s : State) (x : Nat) (e : Extent) : s.reExtents (s.setExtent x e) := by
  have hext : s.setExtent x e = { s with ext := (s.setExtent x e).ext, ring := (s.setExtent x e).ring } := by
    unfold State.setExtent
    split <;> rfl
  refine ⟨(s.setExtent x e).ext.records, (s.setExtent x e).ring.stale, hext.trans ?_⟩
  rw [State.setExtent_ext, State.setExtent_ring]

/-! ## COMMIT -/

theorem State.claimExtent_reExtents (s : State) (n : SlotId) (old : List MapEntry) (x : Nat) :
    s.reExtents (s.claimExtent n old x) := by
  unfold State.claimExtent
  split
  · exact s.reExtents_setExtent x _
  · split
    · exact s.reExtents_refl
    · exact s.reExtents_setExtent x _
  all_goals exact s.reExtents_refl

/-- A claim makes no extent DIRTY, and leaves the DIRTY ones. -/
theorem State.claimExtent_dirty (s : State) (n : SlotId) (old : List MapEntry) (x y : Nat) :
    ((s.claimExtent n old x).extent y).state = .dirty ↔ (s.extent y).state = .dirty := by
  by_cases hy : y = x
  · subst hy
    unfold State.claimExtent
    split
    next hst =>
      rw [State.setExtent_extent]
      split
      · simp [hst]
      · rfl
    next hst =>
      split
      · rfl
      · rw [State.setExtent_extent]
        split <;> rfl
    all_goals rfl
  · rw [State.claimExtent_extent_of_ne s n old x y hy]

/-- The state after the claims of slot `n`'s staging set (R95, step 1). -/
def State.claimed (s : State) (n : SlotId) : State :=
  ((mapEntries (s.slot n).staging).map MapEntry.extent).foldl
    (fun t x => t.claimExtent n (mapEntries (s.slot n).map) x) s

theorem State.foldl_claimExtent_reExtents (n : SlotId) (old : List MapEntry) (xs : List Nat) (s : State) :
    s.reExtents (xs.foldl (fun s x => s.claimExtent n old x) s) := by
  induction xs generalizing s with
  | nil => exact s.reExtents_refl
  | cons x xs ih => exact (s.claimExtent_reExtents n old x).trans (ih _)

theorem State.foldl_claimExtent_dirty (n : SlotId) (old : List MapEntry) (xs : List Nat) (y : Nat) (s : State) :
    ((xs.foldl (fun s x => s.claimExtent n old x) s).extent y).state = .dirty ↔ (s.extent y).state = .dirty := by
  induction xs generalizing s with
  | nil => rfl
  | cons x xs ih => exact (ih _).trans (s.claimExtent_dirty n old x y)

theorem State.claimed_reExtents (s : State) (n : SlotId) : s.reExtents (s.claimed n) :=
  State.foldl_claimExtent_reExtents n _ _ s

theorem namedIn_pos (m : Vector (Option MapEntry) 32) (x : Nat) :
    0 < namedIn m x ↔ x ∈ (mapEntries m).map MapEntry.extent := countP_extent_pos _ x

/-- The extents that are released are those of the old map that the new one does not name. -/
theorem releasedExtents_eq (old new : Vector (Option MapEntry) 32) :
    releasedExtents (mapEntries old) (mapEntries new) =
      ((mapEntries old).map MapEntry.extent).filter fun x => namedIn new x == 0 := by
  rw [List.filter_map]
  refine congrArg (List.map MapEntry.extent) (List.filter_congr fun o _ => ?_)
  rw [Bool.eq_iff_iff]
  simp [namedIn, List.countP_eq_zero]

theorem releasedExtents_length (old new : List MapEntry) :
    (releasedExtents old new).length = old.countP fun o => !(new.any fun e => e.extent == o.extent) := by
  rw [releasedExtents, List.length_map, List.countP_eq_length_filter]

theorem count_releasedExtents_of_named {old new : Vector (Option MapEntry) 32} {x : Nat} (h : 0 < namedIn new x) :
    (releasedExtents (mapEntries old) (mapEntries new)).count x = 0 := by
  rw [releasedExtents_eq, List.count_eq_zero, List.mem_filter]
  rintro ⟨-, hzero⟩
  exact absurd (beq_iff_eq.mp hzero) (by omega)

/-- The state after the claims and the releases of a COMMIT (R95, steps 1 and 2). -/
def State.exchanged (s : State) (n : SlotId) : State :=
  (s.claimed n).releaseExtents n (releasedExtents (mapEntries (s.slot n).map) (mapEntries (s.slot n).staging))

/-- What the claims and the releases leave alone. -/
theorem State.exchanged_frame (s : State) (n : SlotId) :
    (s.exchanged n).slots = s.slots ∧ (s.exchanged n).trk = s.trk ∧ (s.exchanged n).sb = s.sb ∧
      keepsRest s (s.exchanged n) ∧ (s.exchanged n).now = s.now ∧
      (s.exchanged n).ring = { s.ring with stale := (s.exchanged n).ring.stale } := by
  obtain ⟨records, stale, hclaimed⟩ := s.claimed_reExtents n
  have hring := State.releaseExtents_ring n
    (releasedExtents (mapEntries (s.slot n).map) (mapEntries (s.slot n).staging)) (s.claimed n)
  unfold State.exchanged keepsRest
  simp only [State.releaseExtents_slots, State.releaseExtents_trk, State.releaseExtents_sb, State.releaseExtents_ctl,
    State.releaseExtents_params, State.releaseExtents_attachSel, State.releaseExtents_drawn, State.releaseExtents_pending,
    State.releaseExtents_now]
  refine ⟨?_, ?_, ?_, ⟨?_, ?_, ?_, ?_, ?_⟩, ?_, hring.trans ?_⟩ <;> rw [hclaimed]

/-- The extents that become DIRTY join the scrub queue. -/
theorem State.exchanged_join (s : State) (n : SlotId) :
    dirtiedJoin (((mapEntries (s.slot n).map).map MapEntry.extent).filter fun x => namedIn (s.slot n).staging x == 0) s
      (s.exchanged n) := by
  obtain ⟨records, stale, hclaimed⟩ := s.claimed_reExtents n
  obtain ⟨js, hnodup, hsub, hmem, hext, hscrub⟩ := State.releaseExtents_join n
    (releasedExtents (mapEntries (s.slot n).map) (mapEntries (s.slot n).staging)) (s.claimed n)
  have hsame : ∀ k, ((s.exchanged n).entry k).state = (s.entry k).state := fun k =>
    congrArg (fun trk : Tracker => (trk.entries.get k).state) (s.exchanged_frame n).2.1
  refine ⟨js, hnodup, releasedExtents_eq _ _ ▸ hsub, fun x => (hmem x).trans ?_, ?_, ?_⟩
  · exact and_congr_left' (not_congr (State.foldl_claimExtent_dirty n _ _ x s))
  · have hbefore : (s.claimed n).ext = { s.ext with records := (s.claimed n).ext.records } := by rw [hclaimed]
    exact hext.trans (congrArg (fun e : ExtentTable =>
      { e with records := (s.exchanged n).ext.records, queue := e.queue ++ js }) hbefore)
  · have hnone : ¬ ∃ k : MemTag, (s.entry k).state ≠ .free ∧ ((s.exchanged n).entry k).state = .free :=
      fun ⟨k, hk, hfree⟩ => hk ((hsame k).symm.trans hfree)
    have hbefore : (s.claimed n).scrub = s.scrub := by rw [hclaimed]
    rw [hbefore] at hscrub
    unfold scrubHears
    simp only [hnone, or_false]
    exact hscrub

/-- Each extent after a COMMIT, by which of the two sets names it. -/
theorem State.exchanged_extent {s : State} {n : SlotId} (hpass : ∀ i c, ¬ s.commitFails n i c) {x : Nat} (hx : x < 2048) :
    (0 < namedIn (s.slot n).staging x →
      ((s.extent x).state = .free → (s.exchanged n).extent x = ⟨.owned, some n, 0, false⟩) ∧
      ((s.extent x).state = .owned → (s.exchanged n).extent x = s.extent x) ∧
      ((s.extent x).state = .shared → (s.exchanged n).extent x =
        if 0 < namedIn (s.slot n).map x then s.extent x else { s.extent x with refs := (s.extent x).refs + 1 })) ∧
    (namedIn (s.slot n).staging x = 0 →
      (s.exchanged n).extent x = (s.extent x).afterRelease n (namedIn (s.slot n).map x)) := by
  have hafter : (s.exchanged n).extent x = ((s.claimed n).extent x).afterRelease n
      ((releasedExtents (mapEntries (s.slot n).map) (mapEntries (s.slot n).staging)).count x) :=
    State.releaseExtents_extent n _ _ x
  refine ⟨fun hnamed => ?_, fun hnot => ?_⟩
  · have hclaimed : (s.exchanged n).extent x = (s.claimed n).extent x := by
      rw [hafter, count_releasedExtents_of_named hnamed, Extent.afterRelease_zero]
    have hmem := (namedIn_pos _ x).mp hnamed
    refine ⟨fun hst => ?_, fun hst => ?_, fun hst => ?_⟩
    · exact hclaimed.trans (State.claims_free n _ _ x hx s hmem hst)
    · exact hclaimed.trans (State.claims_owned n _ _ x s hst)
    · refine hclaimed.trans ((State.claims_shared n _ _ x hx s hmem (s.staging_nodup n hpass) hst).trans ?_)
      have hany : ((mapEntries (s.slot n).map).any fun o => o.extent == x) = true ↔ 0 < namedIn (s.slot n).map x := by
        rw [List.any_eq_true, namedIn, List.countP_pos_iff]
      simp only [hany]
  · have hmem : x ∉ (mapEntries (s.slot n).staging).map MapEntry.extent := fun h => by
      have := (namedIn_pos _ x).mpr h
      omega
    rw [hafter, count_releasedExtents _ _ x hmem]
    exact congrArg (fun e : Extent => e.afterRelease n (namedIn (s.slot n).map x))
      (State.claims_extent_of_not_mem n _ _ x s hmem)

/-- Settles O42, by what the examination of the staging set finds. -/
theorem commitInstallsTheStagingSet : Obligations.CommitInstallsTheStagingSet := by
  intro s r n h hnames hst
  have hmay : ¬ ((s.slot n).state ≠ .pending ∧ (s.slot n).state ≠ .held) := fun ⟨hp, hh⟩ => hst.elim hp hh
  have hexec : exec .commit s = .next (match s.commitFirst n [] (indexedEntries (s.slot n).staging) with
      | some f => s.finish (r.answer (commitStatus f.2.1) (.commitFailed f.1 f.2.1 f.2.2))
      | none => s.install r n) := by
    refine congrArg Host.Outcome.next ((State.slotRequest_of_executing h hnames s.commitSlot).trans ?_)
    unfold State.commitSlot
    exact (if_neg hmay).trans rfl
  obtain ⟨hnone, hsome⟩ := s.commitFirst_spec n
  have fails {i c : Nat} (hf : s.commitFailsFirst n i c) : ∃ e, (s.slot n).staging[i]? = some (some e) ∧
      exec .commit s = .next (s.answeredWith ⟨commitStatus c, r.slot, r.kind, r.seq,
        .commitFailed i c (if c = 4 then some (s.extent e.extent).state else none)⟩) := by
    cases hfirst : s.commitFirst n [] (indexedEntries (s.slot n).staging) with
    | none => exact absurd hf.1 (hnone hfirst i c)
    | some f =>
      obtain ⟨j, d, found⟩ := f
      obtain ⟨hf', e, he, rfl⟩ := hsome j d found hfirst
      obtain ⟨rfl, rfl⟩ := State.commitFailsFirst_unique hf hf'
      refine ⟨e, he, ?_⟩
      rw [hexec, hfirst]
      exact congrArg (fun a => Host.Outcome.next (s.answeredWith a)) (State.answer_of_executing h (by decide) _ _)
  refine ⟨fun i c hc hf => ?_, fun i e he hf => ?_, fun hpass => ?_⟩
  · obtain ⟨e, -, hanswer⟩ := fails hf
    rw [hanswer, commitStatus, if_neg hc, if_neg hc]
  · obtain ⟨e', he', hanswer⟩ := fails hf
    obtain rfl : e' = e := Option.some.inj (Option.some.inj (he'.symm.trans he))
    rw [hanswer, commitStatus, if_pos rfl, if_pos rfl]
  · have hfirst : s.commitFirst n [] (indexedEntries (s.slot n).staging) = none := by
      cases hfirst : s.commitFirst n [] (indexedEntries (s.slot n).staging) with
      | none => rfl
      | some f => exact absurd (hsome f.1 f.2.1 f.2.2 hfirst).1.1 (hpass _ _)
    rw [hfirst] at hexec
    dsimp only at hexec
    have hinstall : s.install r n = ((s.exchanged n).modSlot n fun sl =>
        { sl with map := sl.staging, staging := Vector.replicate 32 none }).answeredWith ⟨.ok, r.slot, r.kind, r.seq,
          .committed (mapEntries (s.slot n).staging).length
            ((mapEntries (s.slot n).map).countP fun o =>
              !((mapEntries (s.slot n).staging).any fun e => e.extent == o.extent))⟩ := by
      rw [← releasedExtents_length, ← State.answer_of_executing h (by decide)]
      rfl
    rw [hinstall] at hexec
    obtain ⟨hslots, htrk, hsb, hrest, hnow, hring⟩ := s.exchanged_frame n
    have hslot : ∀ m, (s.exchanged n).slot m = s.slot m := fun m => State.slot_of_slots_eq _ _ hslots m
    refine ⟨_, hexec, hnow, ?_, fun m hm => ?_, htrk, hsb, hrest, ?_, s.exchanged_join n, fun x hx => ?_⟩
    · rw [State.answeredWith_slot, State.modSlot_slot_self, hslot]
    · rw [State.answeredWith_slot, State.modSlot_slot_of_ne _ _ _ _ hm, hslot]
    · refine ringAnswered_of_stale ?_ _
      rw [State.modSlot_ring_eq, hring]
    · obtain ⟨hnamed, hnot⟩ := State.exchanged_extent hpass hx
      refine ⟨hnamed, fun hstaging hmap => ?_, fun hstaging hmap => ⟨fun hst howner => ?_, fun hst => ?_⟩⟩
      · refine (hnot hstaging).trans ?_
        rw [hmap, Extent.afterRelease_zero]
      · refine (hnot hstaging).trans ?_
        simp only [Extent.afterRelease, hst, hmap, howner, and_self, if_true, Extent.dirty]
      · refine (hnot hstaging).trans ?_
        simp only [Extent.afterRelease, hst, hmap, true_and, Extent.dirty]

/-! ## PUBLISH and WITHDRAW (R97, R98) -/

theorem State.setExtent_queue (s : State) (x : Nat) (e : Extent) : (s.setExtent x e).ext.queue = s.ext.queue := by
  rw [State.setExtent_ext]

theorem keepsRest_setExtent (s : State) (x : Nat) (e : Extent) : keepsRest s (s.setExtent x e) :=
  ⟨State.setExtent_ctl s x e, State.setExtent_params s x e, State.setExtent_attachSel s x e, State.setExtent_drawn s x e,
    State.setExtent_pending s x e⟩

theorem keepsRest_makeDirty (s : State) (x : Nat) : keepsRest s (s.makeDirty x) := keepsRest_setExtent s x Extent.dirty

theorem State.request_of_executing {s : State} {r : Request} {kind : Nat} (h : s.executing r kind) (f : Request → State) :
    s.request kind f = f r := by
  obtain ⟨hexec, hkind⟩ := h
  simp only [State.request, hexec, if_pos hkind]

/-- The kinds that name no slot have slot byte 0 in their response (log 22). -/
theorem State.answer_of_slotless {s : State} {r : Request} {kind : Nat} (h : s.executing r kind) (hkind : kind ∈ [8, 9, 12])
    (st : Status) (res : Result) : r.answer st res = ⟨st, 0, r.kind, r.seq, res⟩ := by
  have hecho : r.echoSlot = 0 := by
    rw [Request.echoSlot, h.2, if_pos (List.contains_iff_mem.mpr hkind)]
  rw [Request.answer, hecho]

/-- Settles O47. -/
theorem publishAndWithdraw : Obligations.PublishAndWithdraw := by
  intro s r x hx hcount
  obtain rfl : r.extentAt4 = x := BitVec.eq_of_toNat_eq ((toNat_append_bytes r.p5 r.p4).trans hx.symm)
  have publishes (h : s.executing r 8) : exec .publish s = .next (s.publishExtent r) :=
    congrArg Host.Outcome.next (State.request_of_executing h s.publishExtent)
  have withdraws (h : s.executing r 9) : exec .withdraw s = .next (s.withdrawExtent r) :=
    congrArg Host.Outcome.next (State.request_of_executing h s.withdrawExtent)
  refine ⟨fun k hk h hbeyond => ?_, fun h hlt hst => ?_, fun h hlt hst => ?_, fun h hlt hst => ?_, fun h hlt hst hw => ?_⟩
  · rcases hk with rfl | rfl
    · rw [if_pos rfl, publishes h, State.publishExtent, if_pos hbeyond, State.answer_of_slotless h (by decide)]
      rfl
    · rw [if_neg (by decide), withdraws h, State.withdrawExtent, if_pos hbeyond, State.answer_of_slotless h (by decide)]
      rfl
  · rw [publishes h, State.publishExtent, if_neg (by omega), if_neg hst, State.answer_of_slotless h (by decide)]
    rfl
  · have hexec := publishes h
    rw [State.publishExtent, if_neg (by omega), if_pos hst, State.answer_of_slotless h (by decide),
      State.finish_eq_answeredWith] at hexec
    exact ⟨_, hexec, State.setExtent_now s _ _, State.setExtent_extent_self s _ _ (by omega),
      fun y hy => State.setExtent_extent_of_ne s _ y _ hy, State.setExtent_queue s _ _,
      State.setExtent_slots s _ _, State.setExtent_sb s _ _, State.setExtent_trk s _ _, State.setExtent_scrub s _ _,
      keepsRest_setExtent s _ _, ringAnswered_of_stale (State.setExtent_ring s _ _) _⟩
  · have hno : ¬ ((s.extent r.extentAt4.toNat).state = .shared ∧ (s.extent r.extentAt4.toNat).withdrawn = false) := by
      rintro ⟨hshared, hw⟩
      exact hst.elim (fun hne => hne hshared) fun hw' => absurd (hw.symm.trans hw') (by decide)
    rw [withdraws h, State.withdrawExtent, if_neg (by omega), if_neg hno, State.answer_of_slotless h (by decide)]
    rfl
  · have hexec := withdraws h
    rw [State.withdrawExtent, if_neg (by omega), if_pos ⟨hst, hw⟩] at hexec
    by_cases hrefs : (s.extent r.extentAt4.toNat).refs = 0
    · rw [if_pos hrefs, State.answer_of_slotless h (by decide), State.finish_eq_answeredWith] at hexec
      refine ⟨_, hexec, State.makeDirty_now s _, fun y hy => State.makeDirty_extent_of_ne s _ y hy,
        State.makeDirty_slots s _, State.makeDirty_sb s _, State.makeDirty_trk s _, keepsRest_makeDirty s _, ?_⟩
      rw [if_pos hrefs]
      exact ⟨State.makeDirty_extent_self s _ (by omega), congrArg ExtentTable.queue (State.makeDirty_ext s _),
        State.makeDirty_scrub s _, ringAnswered_of_stale (State.makeDirty_ring s _) _⟩
    · rw [if_neg hrefs, State.answer_of_slotless h (by decide), State.finish_eq_answeredWith] at hexec
      refine ⟨_, hexec, State.setExtent_now s _ _, fun y hy => State.setExtent_extent_of_ne s _ y _ hy,
        State.setExtent_slots s _ _, State.setExtent_sb s _ _, State.setExtent_trk s _ _, keepsRest_setExtent s _ _, ?_⟩
      rw [if_neg hrefs]
      exact ⟨State.setExtent_extent_self s _ _ (by omega), State.setExtent_queue s _ _,
        State.setExtent_scrub s _ _, ringAnswered_of_stale (State.setExtent_ring s _ _) _⟩

end Sys2Proof.Machine
end

section
/-! DETACH (R27, R28, R40, R83, R127, R168, R177, R186, R191). -/

namespace Sys2Proof.Machine

/-! ## The slots and the tracker at a DETACH -/

theorem State.all_detachable (s : State) :
    (s.slots.toList.all fun sl => sl.state.detachable) = true ↔ ∀ n, (s.slot n).state.detachable = true := by
  rw [List.all_eq_true]
  simp only [Vector.mem_toList_iff, Vector.mem_iff_getElem]
  constructor
  · exact fun h n => h _ ⟨n.val, n.isLt, rfl⟩
  · rintro h _ ⟨i, hi, rfl⟩
    exact h ⟨i, hi⟩

theorem State.mem_entries (s : State) (e : Entry) : e ∈ s.trk.entries.toList ↔ ∃ k, s.entry k = e := by
  simp only [Vector.mem_toList_iff, Vector.mem_iff_getElem]
  constructor
  · rintro ⟨i, hi, rfl⟩
    exact ⟨⟨i, hi⟩, rfl⟩
  · rintro ⟨k, rfl⟩
    exact ⟨k.val, k.isLt, rfl⟩

theorem EntryState.outstanding_iff (st : EntryState) : st.outstanding = true ↔ st = .issued ∨ st = .late := by
  cases st <;> decide

theorem Entry.responseIndex_eq_some (e : Entry) (i : Nat) :
    e.responseIndex = some i ↔ ∃ last, e.who = .ring ∧ e.state = .issued ∧ e.tag = .ring (.response i last) := by
  unfold Entry.responseIndex
  split
  next h =>
    obtain ⟨hwho, hst⟩ := h
    split
    next idx last htag =>
      rw [htag]
      simp [hwho, hst]
    all_goals
      rename_i htag
      simp [htag]
  next h =>
    constructor
    · exact fun hnone => nomatch hnone
    · rintro ⟨last, hwho, hst, -⟩
      exact absurd ⟨hwho, hst⟩ h

/-- The response writes that the tracker holds in flight (R186). -/
def State.responsesInFlight (s : State) : List Nat := s.trk.entries.toList.filterMap Entry.responseIndex

theorem State.mem_responsesInFlight (s : State) (i : Nat) :
    i ∈ s.responsesInFlight ↔
      ∃ k last, (s.entry k).who = .ring ∧ (s.entry k).state = .issued ∧ (s.entry k).tag = .ring (.response i last) := by
  simp only [State.responsesInFlight, List.mem_filterMap, State.mem_entries, Entry.responseIndex_eq_some]
  constructor
  · rintro ⟨_, ⟨k, rfl⟩, last, h⟩
    exact ⟨k, last, h⟩
  · rintro ⟨k, last, h⟩
    exact ⟨_, ⟨k, rfl⟩, last, h⟩

/-! ## The mirror at a DETACH (R186) -/

/-- The end of a response write that is not the last changes the mirror and ATTN alone. -/
theorem Ring.responseDone_eq_mirror (r : Ring) (j : Nat) :
    r.responseDone j false =
      { r with mirror := (r.responseDone j false).mirror, attn := (r.responseDone j false).attn } := by
  simp only [Ring.responseDone, Bool.false_eq_true, false_and, if_false]
  split
  · exact Ring.setMirror_eq r j .full
  · rfl

theorem Ring.responseDone_get (r : Ring) (j : Nat) (i : Fin 256) :
    (r.responseDone j false).mirror.get i =
      if r.mirror.get i = .writing ∧ i.val = j then .full else r.mirror.get i := by
  simp only [Ring.responseDone, Bool.false_eq_true, false_and, if_false]
  by_cases hij : i.val = j
  · subst hij
    simp only [Ring.mirrorAt_fin, and_true]
    split
    · simp [Ring.setMirror, Vector.get_eq_getElem]
    · rfl
  · simp only [hij, and_false, if_false]
    split
    · unfold Ring.setMirror
      split
      · simp [Vector.get_eq_getElem, Ne.symm hij]
      · rfl
    · rfl

theorem Ring.foldl_responseDone_eq_mirror (l : List Nat) (r : Ring) :
    l.foldl (fun r i => r.responseDone i false) r =
      { r with
        mirror := (l.foldl (fun r i => r.responseDone i false) r).mirror
        attn := (l.foldl (fun r i => r.responseDone i false) r).attn } := by
  induction l generalizing r with
  | nil => rfl
  | cons j l ih =>
    exact (ih (r.responseDone j false)).trans (congrArg (fun r' : Ring =>
      { r' with
        mirror := (l.foldl (fun (r : Ring) i => r.responseDone i false) (r.responseDone j false)).mirror
        attn := (l.foldl (fun (r : Ring) i => r.responseDone i false) (r.responseDone j false)).attn })
      (r.responseDone_eq_mirror j))

theorem Ring.foldl_responseDone_get (l : List Nat) (r : Ring) (i : Fin 256) :
    (l.foldl (fun r i => r.responseDone i false) r).mirror.get i =
      if r.mirror.get i = .writing ∧ i.val ∈ l then .full else r.mirror.get i := by
  induction l generalizing r with
  | nil => simp
  | cons j l ih =>
    refine (ih _).trans ?_
    rw [Ring.responseDone_get]
    by_cases hw : r.mirror.get i = .writing
    · by_cases hj : i.val = j <;> simp [hw, hj]
    · simp [hw]

/-! ## The ring request queue at a DETACH -/

theorem fillOps_append (q ops : List RingOp) : (fillOps q ops).1 ++ (fillOps q ops).2 = q ++ ops := by
  induction ops generalizing q with
  | nil => rfl
  | cons op ops ih =>
    unfold fillOps
    split
    · rw [ih, List.append_assoc]
      rfl
    · rfl

theorem Ring.any_writes_header (r : Ring) :
    r.queue.any (RingOp.writes .header) = true ↔ RingOp.status .header ∈ r.queue := by
  rw [List.any_eq_true]
  constructor
  · rintro ⟨op, hop, hw⟩
    cases op with
    | status u =>
      obtain rfl : StatusUnit.header = u := beq_iff_eq.mp hw
      exact hop
    | fetch _ | taken _ | response _ _ | attachResult _ _ => exact nomatch hw
  · exact fun h => ⟨_, h, beq_self_eq_true _⟩

/-- What steps 3 and 5 of R191 leave of a Ring Interface. -/
theorem Ring.toDraining_dropFetches (r : Ring) :
    r.dropFetches.toDraining.queue ++ r.dropFetches.toDraining.waiting =
        (r.queue ++ r.waiting).filter RingOp.staysAtDetach ∧
      r.dropFetches.toDraining.stale =
        (if RingOp.status .header ∈ r.dropFetches.toDraining.queue then [] else [.header]) ∧
      r.dropFetches.toDraining.state = .draining ∧ r.dropFetches.toDraining.held = none ∧
      r.dropFetches.toDraining.lost = r.lost ∧ r.dropFetches.toDraining.mirror = r.mirror ∧
      r.dropFetches.toDraining.pend = r.pend := by
  refine ⟨(fillOps_append _ _).trans (List.filter_append _ _).symm, ?_, rfl, rfl, rfl, rfl, rfl⟩
  simp only [Ring.toDraining, Ring.any_writes_header]

/-! ## DETACH -/

/-- The Ring Interface after steps 1 and 2 of R191: the sideband requests answered, and the mirrors of the responses in
flight FULL. -/
def State.ringAtDetach (s : State) : Ring :=
  s.responsesInFlight.foldl (fun r i => r.responseDone i false)
    ((s.sb.running.toList ++ s.sb.queue).foldl State.cancelJob s).ring

theorem State.ringAtDetach_eq (s : State) :
    s.ringAtDetach = { s.ring with
      pend := s.ring.pend ++ noBladeAnswers (s.sb.running.toList ++ s.sb.queue)
      reserved := s.ring.reserved - (noBladeAnswers (s.sb.running.toList ++ s.sb.queue)).length
      mirror := s.ringAtDetach.mirror, attn := s.ringAtDetach.attn } := by
  have hcancel := State.foldl_cancelJob_answers (s.sb.running.toList ++ s.sb.queue) s
  have hmirror := Ring.foldl_responseDone_eq_mirror s.responsesInFlight
    ((s.sb.running.toList ++ s.sb.queue).foldl State.cancelJob s).ring
  exact hmirror.trans (congrArg (fun r : Ring =>
    { r with mirror := s.ringAtDetach.mirror, attn := s.ringAtDetach.attn }) hcancel)

theorem State.ringAtDetach_mirror (s : State) (i : Fin 256) :
    s.ringAtDetach.mirror.get i =
      if s.ring.mirror.get i = .writing ∧ ∃ k last, (s.entry k).who = .ring ∧ (s.entry k).state = .issued ∧
        (s.entry k).tag = .ring (.response i.val last) then .full else s.ring.mirror.get i := by
  have hget := Ring.foldl_responseDone_get s.responsesInFlight
    ((s.sb.running.toList ++ s.sb.queue).foldl State.cancelJob s).ring i
  have hcancel : ((s.sb.running.toList ++ s.sb.queue).foldl State.cancelJob s).ring.mirror = s.ring.mirror := by
    rw [State.foldl_cancelJob_answers]
  rw [hcancel] at hget
  simp only [State.mem_responsesInFlight] at hget
  exact hget

theorem State.shutDownPart_ring (s : State) : s.shutDownPart.ring = s.ringAtDetach.dropFetches.toDraining := rfl

/-- Settles O50, by whether every slot's state lets the part go. -/
theorem detachEndsTheAttachment : Obligations.DetachEndsTheAttachment := by
  intro s r h
  have hexec : exec .detach s = .next (s.detachPart r) :=
    congrArg Host.Outcome.next (State.request_of_executing h s.detachPart)
  refine ⟨fun ⟨n, hn⟩ => ?_, fun hall => ?_⟩
  · have hno : ¬ (s.slots.toList.all fun sl => sl.state.detachable) = true := fun hall => by
      have hdet := s.all_detachable.mp hall n
      simp only [List.mem_cons, List.not_mem_nil, or_false] at hn
      rcases hn with h | h | h | h | h | h | h | h <;> rw [h] at hdet <;> exact nomatch hdet
    rw [hexec, State.detachPart, if_neg hno]
    exact congrArg (fun a => Host.Outcome.next (s.answeredWith a)) (State.answer_of_slotless h (by decide) _ _)
  · have hdet : (s.slots.toList.all fun sl => sl.state.detachable) = true := s.all_detachable.mpr fun n => by
      have hn := hall n
      simp only [List.mem_cons, List.not_mem_nil, or_false] at hn
      rcases hn with h | h | h | h | h | h | h <;> rw [h] <;> rfl
    rw [State.detachPart, if_pos hdet, State.answer_of_slotless h (by decide), State.finish_eq_answeredWith] at hexec
    obtain ⟨hqueue, hstale, hstate, hheld, hlost, hmirror, hpend⟩ := s.ringAtDetach.toDraining_dropFetches
    have hring := s.ringAtDetach_eq
    have hsame : s.ringAtDetach.queue = s.ring.queue ∧ s.ringAtDetach.waiting = s.ring.waiting ∧
        s.ringAtDetach.lost = s.ring.lost ∧
        s.ringAtDetach.pend = s.ring.pend ++ noBladeAnswers (s.sb.running.toList ++ s.sb.queue) := by
      rw [hring]
      exact ⟨rfl, rfl, rfl, rfl⟩
    obtain ⟨hq, hw, hl, hp⟩ := hsame
    refine ⟨_, hexec, State.foldl_cancelJob_now _ s, ?_, fun n => Vector.get_ofFn _ n, rfl, rfl,
      State.extent_of_cleared rfl, rfl, rfl, ?_, ⟨fun k => ?_, ?_⟩, hstate, hheld, rfl, hlost.trans hl, ?_, hstale,
      fun i => ?_, ?_⟩
    · exact ⟨State.foldl_cancelJob_ctl _ s, State.foldl_cancelJob_params _ s, State.foldl_cancelJob_attachSel _ s,
        State.foldl_cancelJob_drawn _ s, State.foldl_cancelJob_pending _ s⟩
    · rfl
    · refine (Vector.get_ofFn (fun t => (s.entry t).atDetach) k).trans ?_
      simp only [Entry.atDetach, EntryState.outstanding_iff]
    · rfl
    · rw [hq, hw] at hqueue
      refine hqueue.trans (List.filter_congr fun op _ => ?_)
      cases op with
      | status u => cases u <;> rfl
      | fetch _ | taken _ | response _ _ | attachResult _ _ => rfl
    · refine Eq.trans ?_ (s.ringAtDetach_mirror i)
      exact congrArg (fun m : Vector Mirror 256 => m.get i) hmirror
    · exact congrArg (· ++ [RingRecord.response ⟨.ok, 0, r.kind, r.seq, .nothing⟩]) (hpend.trans hp)

end Sys2Proof.Machine
end

section
/-! Records handed over and written (R185, R186, R188, R189), and the Scrub Engine's take and the end of its pass (R168, R170,
R171, R174, R175). -/

namespace Sys2Proof.Machine

/-! ## Events and the Ring Interface's writes (R185, R186, R188, R189) -/

theorem satInc32_toNat (c : BitVec 32) : (satInc32 c).toNat = min (c.toNat + 1) 4294967295 := by
  have hlt := c.isLt
  rw [satInc32, BitVec.toNat_ofNat, Nat.mod_eq_of_lt (by omega), min_comm]

/-- An event that finds no place unreserved is lost and counted, and the header is owed a write. -/
theorem Ring.postEvent_lost {r : Ring} (ha : r.state = .attached) (hfull : 32 ≤ r.pend.length + r.reserved) (e : Event) :
    ∃ stale, r.postEvent e = { r with lost := satInc32 r.lost, stale := stale } ∧
      ∀ u, u ∈ stale ↔ u ∈ r.stale ∨ (u = .header ∧ RingOp.status .header ∉ r.queue) := by
  rw [Ring.postEvent, if_pos ha, if_neg (by omega), Ring.markStale]
  have hqueued := r.any_writes_header
  by_cases hq : RingOp.status .header ∈ r.queue
  · have hno : ¬ (r.state = .attached ∧ r.queue.any (RingOp.writes .header) = false) := by
      rw [hqueued.mpr hq]
      exact fun h => absurd h.2 (by decide)
    exact ⟨r.stale, if_neg hno, fun u => by simp [hq]⟩
  · have hyes : r.state = .attached ∧ r.queue.any (RingOp.writes .header) = false :=
      ⟨ha, Bool.eq_false_iff.mpr fun h => hq (hqueued.mp h)⟩
    refine ⟨insertUnit .header r.stale, if_pos hyes, fun u => ?_⟩
    rw [mem_insertUnit]
    simp only [hq, not_false_eq_true, and_true]
    exact or_comm

theorem Ring.placeForWrites_of {r : Ring} (hst : r.state ≠ .detached) (hqueue : r.queue.length < 16)
    (hwait : r.waiting = []) (hheld : r.held = none) : r.placeForWrites = true := by
  have hplace : 1 ≤ r.freePlaces := by
    rw [Ring.freePlaces, if_pos hwait]
    omega
  simp [Ring.placeForWrites, Ring.takeDue, hst, hplace, hheld]

theorem Ring.enqueue_of_place {r : Ring} (hqueue : r.queue.length < 16) (hwait : r.waiting = []) (op : RingOp) :
    r.enqueue op = { r with queue := r.queue ++ [op] } := if_pos ⟨hqueue, hwait⟩

theorem Ring.setMirror_fin (r : Ring) (i : Fin 256) (m : Mirror) :
    r.setMirror i.val m = { r with
      mirror := r.mirror.set i.val m i.isLt
      attn := (r.mirror.set i.val m i.isLt).toList.any fun v => v == .full } := dif_pos i.isLt

/-- Settles O51. -/
theorem recordsAreHandedOverAndWritten : Obligations.RecordsAreHandedOverAndWritten := by
  refine ⟨fun s e => ⟨fun ha hplace => ?_, fun ha hfull => ?_, fun ha => ?_⟩, fun s hst hqueue hwait hheld =>
    ⟨fun h rest i hpend hstale hproducer hempty => ?_, fun u us hstale => ⟨?_, ?_⟩⟩⟩
  · rw [State.postEvent, Ring.postEvent, if_pos ha, if_pos hplace]
  · obtain ⟨stale, hpost, hmem⟩ := Ring.postEvent_lost ha hfull e
    exact ⟨_, stale, congrArg (fun r : Ring => { s with ring := r }) hpost, satInc32_toNat _, hmem⟩
  · rw [State.postEvent, Ring.postEvent, if_neg ha]
  · have hcond : s.ring.placeForWrites = true ∧ s.ring.stale = [] ∧ s.ring.mirrorAt s.ring.producer = .empty :=
      ⟨Ring.placeForWrites_of hst hqueue hwait hheld, hstale, by rw [hproducer, Ring.mirrorAt_fin, hempty]⟩
    have hwrite : s.ring.responseWrite = { s.ring with
        queue := s.ring.queue ++ [.response i.val h], mirror := s.ring.mirror.set i.val .writing i.isLt
        attn := (s.ring.mirror.set i.val .writing i.isLt).toList.any fun v => v == .full
        producer := (i.val + 1) % s.ring.respSize, pend := rest } := by
      unfold Ring.responseWrite
      rw [hpend]
      dsimp only
      rw [if_pos hcond, Ring.writeResponse, Ring.enqueue_of_place hqueue hwait, hproducer, Ring.setMirror_fin]
    have hattn : s.ring.responseWrite.attn = s.ring.responseWrite.anyFull := by
      rw [hwrite]
      rfl
    have hring : s.ring.responseWrite = { s.ring with
        queue := s.ring.queue ++ [.response i.val h], mirror := s.ring.mirror.set i.val .writing i.isLt
        attn := s.ring.responseWrite.attn, producer := (i.val + 1) % s.ring.respSize, pend := rest } := by
      rw [hwrite]
    exact ⟨_, rfl, congrArg (fun r : Ring => ({ s with ring := r } : State)) hring, hattn⟩
  · have hkept : s.ring.responseWrite = s.ring := by
      unfold Ring.responseWrite
      split
      · rfl
      · exact if_neg fun hcond => absurd (hstale.symm.trans hcond.2.1) (by simp)
    exact congrArg (fun r : Ring => Host.Outcome.next { s with ring := r }) hkept
  · have hwrite : s.ring.statusWrite = { s.ring with queue := s.ring.queue ++ [.status u], stale := us } := by
      unfold Ring.statusWrite
      rw [hstale]
      dsimp only
      rw [if_pos (Ring.placeForWrites_of hst hqueue hwait hheld), Ring.enqueue_of_place hqueue hwait]
    exact congrArg (fun r : Ring => Host.Outcome.next { s with ring := r }) hwrite

/-! ## The Scrub Engine's take (R168, R170) -/

theorem State.addressed_iff (s : State) (x : Nat) :
    s.addressed x = true ↔ ∃ k, (s.entry k).addresses (s.ext.base.toNat + x * 65536) = true :=
  State.any_entry s fun e => e.addresses (s.ext.addressOf x)

theorem State.scrubReady_iff (s : State) :
    s.scrubReady = true ↔
      s.ring.state = .attached ∧ s.scrub.current = none ∧ s.scrub.deferral < s.ext.queue.length := decide_eq_true_iff

theorem State.scrubTake_waits {s : State} (h : ¬ s.scrubReady = true) : s.scrubTake = s := by
  unfold State.scrubTake
  split
  · rfl
  · exact if_pos (Bool.eq_false_iff.mpr h)

theorem State.scrubTake_defers {s : State} {x : Nat} {rest : List Nat} (hready : s.scrubReady = true)
    (hqueue : s.ext.queue = x :: rest) (haddr : s.addressed x = true) :
    s.scrubTake = { s with
      ext := { s.ext with queue := rest ++ [x] }
      scrub := { s.scrub with deferral := s.scrub.deferral + 1 } } := by
  simp only [State.scrubTake, hqueue, hready, Bool.true_eq_false, if_false, haddr, if_true]

/-- The state after extent `x` is taken. -/
def State.taken (s : State) (x : Nat) (rest : List Nat) : State :=
  { s.setExtent x ⟨.scrubbing, none, 0, false⟩ with
    ext := { (s.setExtent x ⟨.scrubbing, none, 0, false⟩).ext with queue := rest }
    scrub := ⟨some x, 0, 0, 0, 0, 0⟩
    ring := (s.setExtent x ⟨.scrubbing, none, 0, false⟩).ring.markStale .header }

theorem State.scrubTake_takes {s : State} {x : Nat} {rest : List Nat} (hready : s.scrubReady = true)
    (hqueue : s.ext.queue = x :: rest) (haddr : ¬ s.addressed x = true) : s.scrubTake = s.taken x rest := by
  simp only [State.scrubTake, hqueue, hready, Bool.true_eq_false, if_false, haddr]
  rfl

/-- What an operation of the Scrub Engine leaves alone. -/
structure scrubWorks (s t : State) : Prop where
  now : t.now = s.now
  slots : t.slots = s.slots
  sb : t.sb = s.sb
  trk : t.trk = s.trk
  rest : keepsRest s t
  ext : t.ext = { s.ext with records := t.ext.records, queue := t.ext.queue }

theorem scrubWorks.refl (s : State) : scrubWorks s s := ⟨rfl, rfl, rfl, rfl, keepsRest_refl s, rfl⟩

theorem scrubWorks.trans {s t u : State} (h : scrubWorks s t) (k : scrubWorks t u) : scrubWorks s u where
  now := k.now.trans h.now
  slots := k.slots.trans h.slots
  sb := k.sb.trans h.sb
  trk := k.trk.trans h.trk
  rest := h.rest.trans k.rest
  ext := k.ext.trans (congrArg (fun e : ExtentTable => { e with records := u.ext.records, queue := u.ext.queue }) h.ext)

theorem State.setExtent_scrubWorks (s : State) (x : Nat) (e : Extent) : scrubWorks s (s.setExtent x e) where
  now := State.setExtent_now s x e
  slots := State.setExtent_slots s x e
  sb := State.setExtent_sb s x e
  trk := State.setExtent_trk s x e
  rest := keepsRest_setExtent s x e
  ext := (State.setExtent_ext s x e).trans (by rw [State.setExtent_queue])

theorem State.taken_scrubWorks (s : State) (x : Nat) (rest : List Nat) : scrubWorks s (s.taken x rest) :=
  (s.setExtent_scrubWorks x ⟨.scrubbing, none, 0, false⟩).trans ⟨rfl, rfl, rfl, rfl, keepsRest_refl _, rfl⟩

theorem State.taken_extent (s : State) (x : Nat) (rest : List Nat) (y : Nat) :
    (s.taken x rest).extent y = (s.setExtent x ⟨.scrubbing, none, 0, false⟩).extent y := rfl

theorem State.taken_ring (s : State) (x : Nat) (rest : List Nat) :
    (s.taken x rest).ring = { s.ring with stale := (s.taken x rest).ring.stale } :=
  (Ring.markStale_eq _ _).trans (congrArg (fun r : Ring => { r with stale := (s.taken x rest).ring.stale })
    (State.setExtent_ring s x _))

/-- Settles O52. -/
theorem scrubTakesOrDefers : Obligations.ScrubTakesOrDefers := by
  refine ⟨fun s hno => ?_, fun s x rest ha hidle hx hqueue hdef => ?_⟩
  · have hnot : ¬ s.scrubReady = true := by
      rw [State.scrubReady_iff]
      rintro ⟨ha, hidle, hdef⟩
      rcases hno with h | h | h
      · exact h ha
      · exact h hidle
      · omega
    exact congrArg Host.Outcome.next (State.scrubTake_waits hnot)
  · have hready : s.scrubReady = true := s.scrubReady_iff.mpr ⟨ha, hidle, hdef⟩
    refine ⟨fun haddr => ?_, fun hnone => ?_⟩
    · exact congrArg Host.Outcome.next (State.scrubTake_defers hready hqueue ((s.addressed_iff x).mpr haddr))
    · have hnot : ¬ s.addressed x = true := by
        rw [State.addressed_iff]
        rintro ⟨k, hk⟩
        exact absurd ((hnone k).symm.trans hk) (by decide)
      have hworks := s.taken_scrubWorks x rest
      exact ⟨_, congrArg Host.Outcome.next (State.scrubTake_takes hready hqueue hnot), hworks.now,
        State.setExtent_extent_self s x _ hx, fun y hy => State.setExtent_extent_of_ne s x y _ hy, hworks.ext, rfl,
        hworks.slots, hworks.sb, hworks.trk, hworks.rest, s.taken_ring x rest⟩

/-! ## The end of a pass (R171, R174, R175) -/

theorem State.scrubTake_scrubWorks (s : State) : scrubWorks s s.scrubTake := by
  by_cases hready : s.scrubReady = true
  · cases hqueue : s.ext.queue with
    | nil =>
      rw [State.scrubTake_nil s hqueue]
      exact scrubWorks.refl s
    | cons x rest =>
      by_cases haddr : s.addressed x = true
      · rw [State.scrubTake_defers hready hqueue haddr]
        exact ⟨rfl, rfl, rfl, rfl, keepsRest_refl s, rfl⟩
      · rw [State.scrubTake_takes hready hqueue haddr]
        exact s.taken_scrubWorks x rest
  · rw [State.scrubTake_waits hready]
    exact scrubWorks.refl s

/-- A take changes the Ring Interface's stale marks alone. -/
theorem State.scrubTake_ring (s : State) : s.scrubTake.ring = { s.ring with stale := s.scrubTake.ring.stale } := by
  by_cases hready : s.scrubReady = true
  · cases hqueue : s.ext.queue with
    | nil => rw [State.scrubTake_nil s hqueue]
    | cons x rest =>
      by_cases haddr : s.addressed x = true
      · rw [State.scrubTake_defers hready hqueue haddr]
      · rw [State.scrubTake_takes hready hqueue haddr]
        exact s.taken_ring x rest
  · rw [State.scrubTake_waits hready]

/-- A take leaves the extents that are not queued. -/
theorem State.scrubTake_extent {s : State} {z : Nat} (hz : z ∉ s.ext.queue) : s.scrubTake.extent z = s.extent z := by
  by_cases hready : s.scrubReady = true
  · cases hqueue : s.ext.queue with
    | nil => rw [State.scrubTake_nil s hqueue]
    | cons x rest =>
      by_cases haddr : s.addressed x = true
      · rw [State.scrubTake_defers hready hqueue haddr]
        rfl
      · rw [State.scrubTake_takes hready hqueue haddr, State.taken_extent]
        refine State.setExtent_extent_of_ne s x z _ fun h => hz ?_
        rw [hqueue, h]
        exact List.mem_cons_self
  · rw [State.scrubTake_waits hready]

/-- What extent `x` becomes at the end of its pass. -/
def State.passResult (s : State) : Extent := ⟨if s.scrub.errors = 0 then .free else .bad, none, 0, false⟩

/-- The state after the pass over extent `x`, before the engine goes on. -/
def State.passed (s : State) (x : Nat) : State :=
  { s.setExtent x s.passResult with
    scrub := ⟨none, 0, 0, 0, 0, s.scrub.deferral⟩
    ring := if s.scrub.errors = 0 then (s.setExtent x s.passResult).ring
      else (s.setExtent x s.passResult).ring.postEvent (.extentBad x s.scrub.errors s.scrub.timeouts) }

theorem State.endPass_eq (s : State) (x : Nat) :
    s.endPass x =
      if s.ext.queue = [] then
        (s.passed x).postEvent (.scrubIdle ((s.passed x).ext.countOf 0) ((s.passed x).ext.countOf 4))
      else (s.passed x).scrubTake := by
  by_cases hgood : s.scrub.errors = 0
  · simp only [State.endPass, State.passed, State.passResult, if_pos hgood, State.setExtent_queue, State.setExtent_scrub]
  · simp only [State.endPass, State.passed, State.passResult, if_neg hgood, State.postEvent_ext, State.postEvent_scrub,
      State.setExtent_queue, State.setExtent_scrub]
    rfl

theorem State.passed_scrubWorks (s : State) (x : Nat) : scrubWorks s (s.passed x) :=
  (s.setExtent_scrubWorks x s.passResult).trans ⟨rfl, rfl, rfl, rfl, keepsRest_refl _, rfl⟩

theorem State.countOf_free {s : State} (h : s.ext.count ≤ 2048) : s.ext.countOf 0 = s.countIn [.free] := by
  rw [s.countOf_eq h, State.countIn]
  refine List.countP_congr fun x _ => ?_
  cases (s.extent x).state <;> decide

theorem State.countOf_shared {s : State} (h : s.ext.count ≤ 2048) : s.ext.countOf 2 = s.countIn [.shared] := by
  rw [s.countOf_eq h, State.countIn]
  refine List.countP_congr fun x _ => ?_
  cases (s.extent x).state <;> decide

theorem State.countOf_dirty {s : State} (h : s.ext.count ≤ 2048) : s.ext.countOf 3 = s.countIn [.dirty, .scrubbing] := by
  rw [s.countOf_eq h, State.countIn]
  refine List.countP_congr fun x _ => ?_
  cases (s.extent x).state <;> decide

theorem State.countOf_bad {s : State} (h : s.ext.count ≤ 2048) : s.ext.countOf 4 = s.countIn [.bad] := by
  rw [s.countOf_eq h, State.countIn]
  refine List.countP_congr fun x _ => ?_
  cases (s.extent x).state <;> decide

theorem State.passed_queue (s : State) (x : Nat) : (s.passed x).ext.queue = s.ext.queue :=
  State.setExtent_queue s x s.passResult

theorem State.passed_extent_of_ne (s : State) {x y : Nat} (h : y ≠ x) : (s.passed x).extent y = s.extent y :=
  State.setExtent_extent_of_ne s x y _ h

theorem State.passed_ring (s : State) (x : Nat) :
    ∃ q : Ring, q = { s.ring with stale := q.stale } ∧
      (s.passed x).ring =
        if s.scrub.errors = 0 then q else q.postEvent (.extentBad x s.scrub.errors s.scrub.timeouts) :=
  ⟨_, State.setExtent_ring s x s.passResult, rfl⟩

theorem State.passed_ready_iff {s : State} (ha : s.ring.state = .attached) (x : Nat) :
    (s.passed x).scrubReady = true ↔ s.scrub.deferral < s.ext.queue.length := by
  have hstate : (s.passed x).ring.state = .attached := by
    obtain ⟨q, hq, hring⟩ := s.passed_ring x
    have hqa : q.state = .attached := (congrArg Ring.state hq).trans ha
    rw [hring]
    split
    · exact hqa
    · rw [Ring.postEvent_state]
      exact hqa
  rw [State.scrubReady_iff, State.passed_queue]
  exact ⟨fun h => h.2.2, fun h => ⟨hstate, rfl, h⟩⟩

theorem State.passed_addressed_iff (s : State) (x y : Nat) :
    (s.passed x).addressed y = true ↔ ∃ k, (s.entry k).addresses (s.ext.base.toNat + y * 65536) = true := by
  have hworks := s.passed_scrubWorks x
  have hentry (k : MemTag) : (s.passed x).entry k = s.entry k := congrArg (fun trk : Tracker => trk.entries.get k) hworks.trk
  have hbase : (s.passed x).ext.base = s.ext.base := by rw [hworks.ext]
  rw [State.addressed_iff, hbase]
  simp only [hentry]

theorem State.exec_scrubPassEnd {s : State} {x : Nat} (hx : s.scrub.current = some x) (hacks : s.scrub.acks = 256)
    (hnone : ∀ k, (s.entry k).who = .scrub → (s.entry k).state ≠ .issued ∧ (s.entry k).state ≠ .late) :
    exec .scrubPassEnd s = .next (s.endPass x) := by
  have hout : s.scrubOutstanding = false := by
    rw [← Bool.not_eq_true, State.scrubOutstanding, State.any_entry]
    rintro ⟨k, hk⟩
    obtain ⟨hst, hwho⟩ := (Bool.and_eq_true _ _).mp hk
    obtain ⟨hissued, hlate⟩ := hnone k (beq_iff_eq.mp hwho)
    exact ((EntryState.outstanding_iff _).mp hst).elim hissued hlate
  refine congrArg Host.Outcome.next ?_
  unfold State.passEnd
  rw [hx]
  exact if_pos ⟨hacks, hout⟩

/-- Settles O53, by whether an extent waits behind the pass, and then by what the take makes of it. -/
theorem scrubPassEnds : Obligations.ScrubPassEnds := by
  intro s x ha hcount hx hcurrent hacks hnone
  have hexec := State.exec_scrubPassEnd hcurrent hacks hnone
  have hworks := s.passed_scrubWorks x
  have hself : (s.passed x).extent x = s.passResult := State.setExtent_extent_self s x _ hx
  by_cases hempty : s.ext.queue = []
  · rw [State.endPass_eq, if_pos hempty] at hexec
    have hlimit : (s.passed x).ext.count ≤ 2048 := by
      rw [hworks.ext]
      exact hcount
    rw [State.countOf_free hlimit, State.countOf_bad hlimit] at hexec
    refine ⟨_, hexec, hworks.now, hworks.slots, hworks.sb, hworks.trk, hworks.rest, hworks.ext, fun _ => hself,
      (s.passed x).ring, s.passed_ring x,
      fun _ => ⟨fun y hy => s.passed_extent_of_ne hy, (s.passed_queue x).trans hempty, rfl, rfl⟩,
      fun y rest hqueue => absurd (hempty.symm.trans hqueue) (by simp)⟩
  · rw [State.endPass_eq, if_neg hempty] at hexec
    have htake := (s.passed x).scrubTake_scrubWorks
    have hall := hworks.trans htake
    refine ⟨_, hexec, hall.now, hall.slots, hall.sb, hall.trk, hall.rest, hall.ext, fun hnot => ?_, (s.passed x).ring,
      s.passed_ring x, fun h => absurd h hempty, fun y rest hqueue hy => ⟨?_, fun hdef hfree => ?_, fun hdef hbusy => ?_,
      fun hwait => ?_⟩⟩
    · rw [State.scrubTake_extent (by rw [State.passed_queue]; exact hnot)]
      exact hself
    · exact (s.passed x).scrubTake_ring
    · have hnot : ¬ (s.passed x).addressed y = true := by
        rw [State.passed_addressed_iff]
        rintro ⟨k, hk⟩
        exact absurd ((hfree k).symm.trans hk) (by decide)
      rw [State.scrubTake_takes ((State.passed_ready_iff ha x).mpr hdef) ((s.passed_queue x).trans hqueue) hnot]
      exact ⟨State.setExtent_extent_self _ y _ hy, fun z hzx hzy =>
        (State.setExtent_extent_of_ne _ y z _ hzy).trans (s.passed_extent_of_ne hzx), rfl, rfl⟩
    · rw [State.scrubTake_defers ((State.passed_ready_iff ha x).mpr hdef) ((s.passed_queue x).trans hqueue)
        ((s.passed_addressed_iff x y).mpr hbusy)]
      exact ⟨fun z hz => s.passed_extent_of_ne hz, rfl, rfl⟩
    · have hnot : ¬ (s.passed x).scrubReady = true := by
        rw [State.passed_ready_iff ha]
        omega
      rw [State.scrubTake_waits hnot]
      exact ⟨fun z hz => s.passed_extent_of_ne hz, s.passed_queue x, rfl⟩

end Sys2Proof.Machine
end

section
/-! The records that the part writes and reads, byte by byte (R104, R181, R192, R193). -/

namespace Sys2Proof.Machine

/-! ## The bytes of fields that lie one behind another -/

/-- The fields lie one behind another from `pos` on, and end by `total`. -/
def Fields.ascend (pos total : Nat) : Fields → Bool
  | [] => decide (pos ≤ total)
  | (off, size, _) :: rest => decide (pos ≤ off) && Fields.ascend (off + size) total rest

/-- The bytes from `pos` to `total` of a record with these fields: each field's, and 0 between and behind them. -/
def Fields.bytes (pos total : Nat) : Fields → List Byte
  | [] => zeroBytes (total - pos)
  | (off, size, value) :: rest => zeroBytes (off - pos) ++ leBytes size value ++ Fields.bytes (off + size) total rest

theorem Fields.ascend_cons {pos total off size value : Nat} {rest : Fields} :
    Fields.ascend pos total ((off, size, value) :: rest) = true ↔
      pos ≤ off ∧ Fields.ascend (off + size) total rest = true := by
  simp [Fields.ascend]

theorem Fields.ascend_le {pos total : Nat} {fs : Fields} (h : Fields.ascend pos total fs = true) : pos ≤ total := by
  induction fs generalizing pos with
  | nil => exact of_decide_eq_true h
  | cons f rest ih =>
    obtain ⟨off, size, value⟩ := f
    obtain ⟨hoff, hrest⟩ := Fields.ascend_cons.mp h
    have := ih hrest
    omega

/-- No field lies before the first one. -/
theorem fieldByte_before {pos total i : Nat} {fs : Fields} (h : Fields.ascend pos total fs = true) (hi : i < pos) :
    fieldByte fs i = 0 := by
  induction fs generalizing pos with
  | nil => rfl
  | cons f rest ih =>
    obtain ⟨off, size, value⟩ := f
    obtain ⟨hoff, hrest⟩ := Fields.ascend_cons.mp h
    rw [fieldByte, if_neg (by omega)]
    exact ih hrest (by omega)

theorem ofNat_mod_byte (v : Nat) : BitVec.ofNat 8 (v % 256) = BitVec.ofNat 8 v := by
  apply BitVec.eq_of_toNat_eq
  simp

theorem leBytes_eq (size v : Nat) :
    leBytes size v = (List.range size).map fun j => BitVec.ofNat 8 (v / 256 ^ j % 256) := by
  induction size generalizing v with
  | zero => rfl
  | succ size ih =>
    rw [leBytes, ih, List.range_succ_eq_map, List.map_cons, List.map_map, Nat.pow_zero, Nat.div_one, ofNat_mod_byte]
    refine congrArg _ (List.map_congr_left fun j _ => ?_)
    rw [Nat.div_div_eq_div_mul, ← Nat.pow_succ']
    rfl

theorem zeroBytes_eq (k : Nat) : zeroBytes k = (List.range k).map fun _ => 0 := by
  rw [zeroBytes, List.map_const', List.length_range]

theorem Fields.bytes_eq {pos total : Nat} {fs : Fields} (h : Fields.ascend pos total fs = true) :
    (List.range (total - pos)).map (fun i => BitVec.ofNat 8 (fieldByte fs (pos + i))) = Fields.bytes pos total fs := by
  induction fs generalizing pos with
  | nil => exact (zeroBytes_eq _).symm
  | cons f rest ih =>
    obtain ⟨off, size, value⟩ := f
    obtain ⟨hoff, hrest⟩ := Fields.ascend_cons.mp h
    have hle := Fields.ascend_le hrest
    have hsplit : total - pos = (off - pos) + (size + (total - (off + size))) := by omega
    rw [hsplit, List.range_add, List.range_add, List.map_append, List.map_append, List.map_append, List.map_map, List.map_map,
      List.map_map, Fields.bytes, ← ih hrest, leBytes_eq, zeroBytes_eq, List.append_assoc]
    congr 1
    · refine List.map_congr_left fun i hi => ?_
      rw [List.mem_range] at hi
      rw [fieldByte, if_neg (by omega), fieldByte_before hrest (by omega)]
      rfl
    congr 1
    · refine List.map_congr_left fun j hj => ?_
      rw [List.mem_range] at hj
      simp only [Function.comp_apply, fieldByte]
      rw [if_pos (by omega), show pos + (off - pos + j) - off = j by omega]
    · refine List.map_congr_left fun j _ => ?_
      simp only [Function.comp_apply, fieldByte]
      rw [if_neg (by omega), show pos + (off - pos + (size + j)) = off + size + j by omega]

theorem writesBytes_of_ascend {fs : Fields} {n : Nat} {bytes : List Byte} (h : Fields.ascend 0 (8 * n) fs = true)
    (hbytes : Fields.bytes 0 (8 * n) fs = bytes) : writesBytes (writeBeats fs n) bytes := by
  refine writesBytes_writeBeats ((List.map_congr_left fun i _ => ?_).trans ((Fields.bytes_eq h).trans hbytes))
  rw [Nat.zero_add]

/-! ## Fields in another order -/

/-- Two fields share no byte. -/
def fieldsApart (f g : Nat × Nat × Nat) : Prop := f.1 + f.2.1 ≤ g.1 ∨ g.1 + g.2.1 ≤ f.1

theorem fieldsApart.symm {f g : Nat × Nat × Nat} (h : fieldsApart f g) : fieldsApart g f := Or.symm h

theorem Fields.apart_of_ascend {pos total : Nat} {fs : Fields} (h : Fields.ascend pos total fs = true) :
    (∀ f ∈ fs, pos ≤ f.1) ∧ fs.Pairwise fieldsApart := by
  induction fs generalizing pos with
  | nil => exact ⟨fun _ hf => (nomatch hf), .nil⟩
  | cons f rest ih =>
    obtain ⟨off, size, value⟩ := f
    obtain ⟨hoff, hrest⟩ := Fields.ascend_cons.mp h
    obtain ⟨hafter, hpair⟩ := ih hrest
    refine ⟨fun g hg => ?_, List.pairwise_cons.mpr ⟨fun g hg => Or.inl (hafter g hg), hpair⟩⟩
    rcases List.mem_cons.mp hg with rfl | hg
    · exact hoff
    · have := hafter g hg
      omega

/-- The order in which fields that share no byte are named does not matter. -/
theorem fieldByte_perm {fs gs : Fields} (h : fs.Perm gs) (hd : fs.Pairwise fieldsApart) (i : Nat) :
    fieldByte fs i = fieldByte gs i := by
  induction h with
  | nil => rfl
  | cons f _ ih =>
    obtain ⟨off, size, value⟩ := f
    rw [fieldByte, fieldByte, ih (List.pairwise_cons.mp hd).2]
  | swap f g l =>
    obtain ⟨off, size, value⟩ := f
    obtain ⟨off', size', value'⟩ := g
    have hapart : fieldsApart (off', size', value') (off, size, value) :=
      (List.pairwise_cons.mp hd).1 _ List.mem_cons_self
    simp only [fieldsApart] at hapart
    simp only [fieldByte]
    split
    · rw [if_neg (by omega)]
    · rfl
  | trans h _ ih ih' =>
    exact (ih hd).trans (ih' ((h.pairwise_iff fieldsApart.symm).mp hd))

theorem writesBytes_of_perm {fs gs : Fields} {n : Nat} {bytes : List Byte} (hperm : fs.Perm gs)
    (h : Fields.ascend 0 (8 * n) gs = true) (hbytes : Fields.bytes 0 (8 * n) gs = bytes) :
    writesBytes (writeBeats fs n) bytes := by
  have hd : fs.Pairwise fieldsApart := (hperm.pairwise_iff fieldsApart.symm).mpr (Fields.apart_of_ascend h).2
  have hsame : fieldByte fs = fieldByte gs := funext fun i => fieldByte_perm hperm hd i
  have hbeats : writeBeats fs n = writeBeats gs n := by
    simp only [writeBeats, fieldBeat, hsame]
  rw [hbeats]
  exact writesBytes_of_ascend h hbytes

/-! ## Responses and events (11.4) -/

theorem leBytes_byte (b : Byte) : leBytes 1 b.toNat = [b] := by
  simp [leBytes]

/-- The fields of a result, by their offsets. -/
def Result.ascending : Result → Fields
  | .extent number fld state refs =>
    [(8, 1, fld), (10, 1, (state.map ExtentState.code).getD 0), (11, 1, refs), (12, 2, number.toNat)]
  | r => r.fields

theorem Result.ascending_perm (r : Result) : r.fields.Perm r.ascending := by
  cases r with
  | extent number fld state refs => exact (List.perm_append_comm (l₁ := [(12, 2, number.toNat)]))
  | _ => exact .refl _

theorem Response.writes (r : Response) : writesBytes (writeBeats (RingRecord.response r).fields 4) r.bytes := by
  obtain ⟨st, slot, kind, seq, res⟩ := r
  refine writesBytes_of_perm (gs := [(0, 1, 1), (1, 1, st.code), (2, 1, slot.toNat), (3, 1, kind.toNat), (4, 2, seq.toNat)] ++
    res.ascending ++ [(31, 1, 1)]) (((Result.ascending_perm res).append_left _).append_right _) ?_ ?_
  · cases res <;> rfl
  · have hread : [slot, kind] = leBytes 1 slot.toNat ++ leBytes 1 kind.toNat := by
      rw [leBytes_byte, leBytes_byte]
      rfl
    dsimp only [Response.bytes]
    rw [hread]
    cases res with
    | sideband reg data =>
      dsimp only [Result.bytes]
      rw [← leBytes_byte reg]
      rfl
    | _ => rfl

theorem Event.writes (e : Event) : writesBytes (writeBeats (RingRecord.event e).fields 4) e.bytes := by
  have hperm (fs : Fields) (h : e.fields.Perm fs) : (RingRecord.event e).fields.Perm ([(0, 1, 2)] ++ fs ++ [(31, 1, 1)]) :=
    (List.Perm.cons _ ((List.perm_append_comm (l₁ := [(31, 1, 1)])).trans (h.append_right _)))
  cases e with
  | memoryWriteError who inc addr beats state =>
    cases who with
    | slot n =>
      exact writesBytes_of_perm (hperm [(1, 1, 14), (2, 1, slotNumber n), (6, 2, inc.toNat),
        (8, 1, (Participant.slot n).code), (9, 1, beats), (10, 1, state.code), (16, 5, addr.toNat)]
        (List.perm_append_comm_assoc [(2, 1, slotNumber n), (6, 2, inc.toNat)] [(1, 1, 14)] _)) rfl rfl
    | control | ring | scrub => exact writesBytes_of_perm (hperm _ (.refl _)) rfl rfl
  | _ => exact writesBytes_of_perm (hperm _ (.refl _)) rfl rfl

/-! ## The status block and the attach result (11.2, 11.5) -/

theorem Slot.statusFields_write (sl : Slot) : writesBytes (writeBeats sl.statusFields 4)
    (leBytes 1 sl.state.code ++ leBytes 1 ((sl.resume.map SlotState.code).getD 0) ++ leBytes 2 sl.incarnation.toNat ++
      leBytes 1 ((sl.fault.map FaultCause.code).getD 0) ++ leBytes 1 sl.forced.toNat ++ leBytes 1 sl.effCredit ++
      leBytes 1 (sl.present.toNat + 2 * sl.eject.toNat + 4 * sl.pwrGood.toNat) ++ zeroBytes 24) :=
  writesBytes_of_ascend rfl rfl

theorem State.header_writes {s : State} (h : s.ext.count ≤ 2048) : writesBytes (writeBeats (headerFields s.ext s.ring) 8)
    ([if s.ring.state = .attached then 1 else 0] ++ zeroBytes 3 ++ leBytes 2 (s.countIn [.free]) ++
      leBytes 2 (s.countIn [.shared]) ++ leBytes 2 (s.countIn [.dirty, .scrubbing]) ++ leBytes 2 (s.countIn [.bad]) ++
      leBytes 2 s.ext.queue.length ++ zeroBytes 2 ++ leBytes 4 s.ring.lost.toNat ++ leBytes 4 s.ext.discards.toNat ++
      zeroBytes 40) := by
  have hstate : ([if s.ring.state = .attached then 1 else 0] : List Byte) =
      leBytes 1 (decide (s.ring.state = .attached)).toNat := by
    cases s.ring.state <;> rfl
  rw [hstate, ← State.countOf_free h, ← State.countOf_shared h, ← State.countOf_dirty h, ← State.countOf_bad h]
  exact writesBytes_of_ascend rfl rfl

theorem Status.code_lt (st : Status) : st.code < 256 := by
  cases st <;> decide

/-- Beat 15 of the attach record: the status and the field. -/
theorem attachResult_writes (st : Status) {field : Nat} (h : field < 256) :
    writesBytes [⟨0xFF, BitVec.ofNat 64 (st.code + 256 * field)⟩] (leBytes 1 st.code ++ leBytes 1 field ++ zeroBytes 6) := by
  have hcode := st.code_lt
  have hbeat : [⟨0xFF, BitVec.ofNat 64 (st.code + 256 * field)⟩] = writeBeats [(0, 1, st.code), (1, 1, field)] 1 := by
    have hdigits : (List.range 8).foldr (fun i acc => fieldByte [(0, 1, st.code), (1, 1, field)] (8 * 0 + i) + 256 * acc) 0 =
        st.code / 256 ^ 0 % 256 + 256 * (field / 256 ^ 0 % 256 + 256 * 0) := rfl
    have hbeat : fieldBeat [(0, 1, st.code), (1, 1, field)] 0 = BitVec.ofNat 64 (st.code + 256 * field) := by
      rw [fieldBeat, hdigits]
      congr 1
      omega
    rw [← hbeat]
    rfl
  rw [hbeat]
  exact writesBytes_of_ascend rfl rfl

/-! ## The records that the part reads (11.2, 11.3) -/

/-- A field that lies within one beat of a fetched record. -/
theorem recNat_within (data : List Beat) (k j size : Nat) (h : j + size ≤ 8) :
    recNat data (8 * k + j) size = ((data.getD k 0).extractLsb' (8 * j) (8 * size)).toNat := by
  induction size generalizing j with
  | zero => simp [recNat]
  | succ size ih =>
    have hnext : recNat data (8 * k + j + 1) size = ((data.getD k 0).extractLsb' (8 * (j + 1)) (8 * size)).toNat :=
      ih (j + 1) (by omega)
    have hdiv : (8 * k + j) / 8 = k := by omega
    have hmod : (8 * k + j) % 8 = j := by omega
    rw [recNat, hnext, recByte, hdiv, hmod]
    simp only [BitVec.extractLsb'_toNat, Nat.shiftRight_eq_div_pow]
    rw [show 8 * (size + 1) = 8 + 8 * size by omega, Nat.pow_add, Nat.mod_mul, Nat.div_div_eq_div_mul, ← Nat.pow_add,
      show 8 * (j + 1) = 8 * j + 8 by omega]

theorem recByte_within (data : List Beat) (k j : Nat) (h : j < 8) :
    recByte data (8 * k + j) = (data.getD k 0).extractLsb' (8 * j) 8 := by
  have hdiv : (8 * k + j) / 8 = k := by omega
  have hmod : (8 * k + j) % 8 = j := by omega
  rw [recByte, hdiv, hmod]

theorem Request.parse_eq (w0 w1 w2 w3 : Beat) :
    Request.parse [w0, w1, w2, w3] = ⟨w0.extractLsb' 0 8, w0.extractLsb' 8 8, w0.extractLsb' 16 16, w0.extractLsb' 32 8,
      w0.extractLsb' 40 8, w0.extractLsb' 48 8, w0.extractLsb' 56 8, w1.extractLsb' 0 8, w1.extractLsb' 8 8⟩ := by
  have hseq : BitVec.ofNat 16 (recNat [w0, w1, w2, w3] 2 2) = w0.extractLsb' 16 16 := by
    rw [recNat_within [w0, w1, w2, w3] 0 2 2 (by decide), BitVec.ofNat_toNat, BitVec.setWidth_eq]
    rfl
  rw [Request.parse, hseq]
  rfl

/-- A beat is told by its bytes. -/
theorem beat_eq_of_bytes {a b : Beat} (h : ∀ i, i < 8 → a.extractLsb' (8 * i) 8 = b.extractLsb' (8 * i) 8) : a = b := by
  refine BitVec.eq_of_getLsbD_eq fun p hp => ?_
  have hbyte := congrArg (fun v : Byte => v.getLsbD (p % 8)) (h (p / 8) (by omega))
  have hbit : p % 8 < 8 := by omega
  simp only [BitVec.getLsbD_extractLsb', hbit, decide_true, Bool.true_and, Nat.div_add_mod] at hbyte
  exact hbyte

theorem hasMarker_iff (w0 : Beat) (rest : List Beat) : hasMarker (w0 :: rest) = true ↔ w0 = 0x412D54454A534152 := by
  have hfirst : (List.range 8).map (recByte (w0 :: rest)) = (List.range 8).map fun i => w0.extractLsb' (8 * i) 8 :=
    List.map_congr_left fun i hi => by
      have hbyte := recByte_within (w0 :: rest) 0 i (List.mem_range.mp hi)
      rw [Nat.mul_zero, Nat.zero_add] at hbyte
      exact hbyte
  have hmarker : markerBytes = (List.range 8).map fun i => (0x412D54454A534152 : Beat).extractLsb' (8 * i) 8 := by decide
  have hbytes : (List.range 8).map (recByte (w0 :: rest)) = markerBytes ↔ w0 = 0x412D54454A534152 := by
    rw [hfirst, hmarker, List.map_inj_left]
    exact ⟨fun h => beat_eq_of_bytes fun i hi => h i (List.mem_range.mpr hi), fun h i _ => by rw [h]⟩
  rw [← hbytes]
  exact decide_eq_true_iff

theorem AttachRecord.parse_eq (w0 w1 w2 w3 w4 w5 w6 w7 : Beat) (rest : List Beat) :
    AttachRecord.parse (w0 :: w1 :: w2 :: w3 :: w4 :: w5 :: w6 :: w7 :: rest) = {
      reqBase := (w1.extractLsb' 0 40).toNat, reqSize := (w1.extractLsb' 48 16).toNat,
      respBase := (w2.extractLsb' 0 40).toNat, respSize := (w2.extractLsb' 48 16).toNat,
      statusBase := (w3.extractLsb' 0 40).toNat, managedBase := (w4.extractLsb' 0 40).toNat,
      extentCount := (w4.extractLsb' 48 16).toNat, fill := w5.extractLsb' 0 8, scrubAtAttach := w5.getLsbD 8,
      autoRetire := w5.getLsbD 9, debounce := (w5.extractLsb' 16 8).toNat, powerLimit := (w5.extractLsb' 24 8).toNat,
      sidebandTimeout := (w5.extractLsb' 32 8).toNat, probeLimit := (w5.extractLsb' 40 8).toNat,
      glitchLimit := (w5.extractLsb' 48 8).toNat, rampStep := (w5.extractLsb' 56 8).toNat,
      grace := (w6.extractLsb' 0 16).toNat, holdLimit := (w6.extractLsb' 16 16).toNat,
      drainLimit := (w6.extractLsb' 32 16).toNat, completionTimeout := (w6.extractLsb' 48 16).toNat,
      scrubPace := (w7.extractLsb' 0 8).toNat } := by
  generalize hdata : w0 :: w1 :: w2 :: w3 :: w4 :: w5 :: w6 :: w7 :: rest = data
  have hfield (k j size : Nat) (h : j + size ≤ 8) := recNat_within data k j size h
  have hflag (i : Nat) (h : i < 8) : (recByte data 41).getLsbD i = w5.getLsbD (8 + i) := by
    rw [recByte_within data 5 1 (by decide), BitVec.getLsbD_extractLsb', ← hdata]
    simp [h]
  rw [AttachRecord.parse, hfield 1 0 5 (by decide), hfield 1 6 2 (by decide), hfield 2 0 5 (by decide),
    hfield 2 6 2 (by decide), hfield 3 0 5 (by decide), hfield 4 0 5 (by decide), hfield 4 6 2 (by decide),
    hfield 5 2 1 (by decide), hfield 5 3 1 (by decide), hfield 5 4 1 (by decide), hfield 5 5 1 (by decide),
    hfield 5 6 1 (by decide), hfield 5 7 1 (by decide), hfield 6 0 2 (by decide), hfield 6 2 2 (by decide),
    hfield 6 4 2 (by decide), hfield 6 6 2 (by decide), hfield 7 0 1 (by decide), hflag 0 (by decide),
    hflag 1 (by decide), ← hdata]
  rfl

/-- Settles O54. -/
theorem recordsAreLaidOut : Obligations.RecordsAreLaidOut := by
  refine ⟨by decide, Slot.statusFields_write, fun s h => ⟨State.header_writes h, fun k j => ?_⟩, Response.writes, Event.writes,
    fun st field h => attachResult_writes st h, fun w0 w1 w2 w3 => ⟨Request.parse_eq w0 w1 w2 w3, rfl⟩,
    fun w0 w1 w2 w3 w4 w5 w6 w7 rest => ⟨hasMarker_iff w0 _, AttachRecord.parse_eq w0 w1 w2 w3 w4 w5 w6 w7 rest⟩⟩
  rw [State.extentMap_bits]
  cases (s.extent (32 * k.val + j.val)).state <;> rfl

end Sys2Proof.Machine
end

section
/-! The lines of the Sideband Engine and its acknowledgement (R29, R30, R31). -/

namespace Sys2Proof.Machine

/-! ## The level of a slot's SBDAT -/

/-- The status block does not show a line's level. -/
theorem State.line_eq_withSlot (s : State) (n : SlotId) (low : Bool) :
    (s.modSlot n fun sl => { sl with sbdatLow := low }) = s.withSlot n { s.slot n with sbdatLow := low } :=
  State.modSlot_eq_withSlot s n _ rfl

theorem State.withSlot_slot_of_ne (s : State) {n m : SlotId} (sl : Slot) (h : m ≠ n) :
    (s.withSlot n sl).slot m = s.slot m :=
  Vector.getElem_set_ne n.isLt m.isLt fun hv => h (Fin.ext hv).symm

/-! ## What an access sends (R30) -/

theorem Job.commandSent_eq (j : Job) :
    j.commandSent = [.startMark, .bit j.isWrite, .bit false, .bit false, .bit (j.register.getLsbD 4),
      .bit (j.register.getLsbD 3), .bit (j.register.getLsbD 2), .bit (j.register.getLsbD 1),
      .bit (j.register.getLsbD 0)] := by
  unfold Job.commandSent Job.command
  generalize j.isWrite = w
  generalize j.register = r
  have hbits : (List.range 8).map (fun i => (BitVec.ofBool w ++ (0 : BitVec 2) ++ r : Byte).getMsbD i) =
      [w, false, false, r.getLsbD 4, r.getLsbD 3, r.getLsbD 2, r.getLsbD 1, r.getLsbD 0] := by
    revert w r
    decide
  have hsent := congrArg (List.map DataPin.bit) hbits
  rw [List.map_map] at hsent
  exact congrArg (DataPin.startMark :: ·) hsent

/-- A phase that ends at `ends` is in its bit time `i`. -/
theorem bitTime_eq {bits ends now i : Nat} (hi : i < bits) (hlo : ends + 2 * i ≤ now + 2 * bits)
    (hhi : now + 2 * bits < ends + 2 * i + 2) : bitTime bits ends now = i := by
  unfold bitTime
  omega

/-- In bit time `i` of COMMAND the part sends the start mark or a bit of the command. -/
theorem Sideband.dataPin_command {sb : Sideband} {j : Job} {now : Nat} (hrun : sb.running = some j)
    (hphase : sb.phase = .command) (i : Fin 9) (hlo : sb.phaseEnds + 2 * i.val ≤ now + 18)
    (hhi : now + 18 < sb.phaseEnds + 2 * i.val + 2) (high : Bool) :
    sb.dataPin now high = [.startMark, .bit j.isWrite, .bit false, .bit false, .bit (j.register.getLsbD 4),
      .bit (j.register.getLsbD 3), .bit (j.register.getLsbD 2), .bit (j.register.getLsbD 1),
      .bit (j.register.getLsbD 0)][i.val] := by
  have htime : bitTime 9 sb.phaseEnds now = i.val := bitTime_eq i.isLt hlo hhi
  simp only [Sideband.dataPin, hphase, hrun, htime, Job.commandSent_eq]
  exact (List.getElem_eq_getD _).symm

/-- In bit time `i` of WRITE_DATA the part sends the data's bit `15 - i`. -/
theorem Sideband.dataPin_writeData {sb : Sideband} {n : SlotId} {w : Bool} {reg : Byte} {d seq : Half} {now : Nat}
    (hrun : sb.running = some (.request n w reg d seq)) (hphase : sb.phase = .writeData) (i : Fin 16)
    (hlo : sb.phaseEnds + 2 * i.val ≤ now + 32) (hhi : now + 32 < sb.phaseEnds + 2 * i.val + 2) (high : Bool) :
    sb.dataPin now high = .bit (d.getLsbD (15 - i.val)) := by
  have htime : bitTime 16 sb.phaseEnds now = i.val := bitTime_eq i.isLt hlo hhi
  have hsent : (Job.request n w reg d seq).dataSent.getD i.val (.released high) = .bit (d.getMsbD i.val) := by
    simp [Job.dataSent, Job.sentData]
  simp only [Sideband.dataPin, hphase, hrun, htime, hsent]
  simp [BitVec.getMsbD, i.isLt]

/-! ## The acknowledgement (R31) -/

theorem Sideband.runsOn_iff (sb : Sideband) (n : SlotId) :
    sb.runsOn n = true ↔ ∃ j, sb.running = some j ∧ j.slot = n := by
  cases h : sb.running <;> simp [Sideband.runsOn, h]

theorem Sideband.overdue_iff (sb : Sideband) (now : Nat) :
    sb.overdue now = true ↔ sb.expired = true ∨ sb.started + sb.timeout * 10 < now := by
  rw [Sideband.overdue, Bool.or_eq_true, decide_eq_true_eq, Sideband.expiry]

/-- What an acknowledgement that counts makes of the engine. -/
def Sideband.heard (sb : Sideband) (j : Job) (now : Nat) : Sideband :=
  if sb.expired = true ∨ sb.started + sb.timeout * 10 < now then
    { sb with phase := .stop, phaseEnds := now + 2, expired := false, failed := true }
  else if j.isWrite = true then { sb with phase := .stop, phaseEnds := now + 2 }
  else { sb with phase := .readData, phaseEnds := now + 32 }

theorem State.acknowledge_ackWait {s : State} {j : Job} (hrun : s.sb.running = some j) (hphase : s.sb.phase = .ackWait) :
    s.acknowledge = { s with sb := s.sb.heard j s.now } := by
  simp only [State.acknowledge, hphase, Sideband.heard, Sideband.overdue_iff]
  split
  · rw [State.failAccess, if_pos hphase]
    rfl
  · simp only [Sideband.acknowledged, hrun, Option.any_some]

theorem State.acknowledge_elsewhere {s : State} (hphase : s.sb.phase ≠ .ackWait) : s.acknowledge = s := by
  unfold State.acknowledge
  split
  · contradiction
  all_goals rfl

/-- Settles O35. -/
theorem acknowledgementStopsTheTimeout : Obligations.AcknowledgementStopsTheTimeout := by
  intro s n
  refine ⟨fun hoff => ⟨?_, if_pos hoff, if_pos hoff⟩, fun hon => ?_⟩
  · exact congrArg Host.Outcome.next (if_pos hoff)
  have hpwr : ¬ (s.slot n).pwrEn = false := by rw [hon]; decide
  have hexec : exec (.sidebandAcknowledgement n) s = .next (if s.sb.runsOn n = true then
      (s.withSlot n { s.slot n with sbdatLow := true }).acknowledge
      else s.withSlot n { s.slot n with sbdatLow := true }) := by
    rw [← State.line_eq_withSlot]
    exact congrArg Host.Outcome.next (if_neg hpwr)
  have hline : slotBecomes n s (s.withSlot n { s.slot n with sbdatLow := true }) { s.slot n with sbdatLow := true } :=
    s.line_eq_withSlot n true ▸ slotBecomes_modSlot n s fun sl => { sl with sbdatLow := true }
  have hclock (h : s.sb.onLine = some n) : s.sbclk n = s.sb.clockPin s.now := by
    rw [State.sbclk, if_neg hpwr, if_pos h]
  have hdata (h : s.sb.onLine = some n) : s.sbdat n = s.sb.dataPin s.now (!(s.slot n).sbdatLow) := by
    rw [State.sbdat, if_neg hpwr, if_pos h]
  refine ⟨fun j hrun hslot hphase => ?_, fun hno => ?_, fun hno => ?_, fun j hrun hslot => ?_⟩
  · rw [if_pos ((s.sb.runsOn_iff n).mpr ⟨j, hrun, hslot⟩),
      State.acknowledge_ackWait (s := s.withSlot n { s.slot n with sbdatLow := true }) hrun hphase] at hexec
    exact ⟨_, hexec, rfl, State.withSlot_slot_self s n _, fun m hm => s.withSlot_slot_of_ne _ hm, rfl, rfl, rfl, rfl, rfl,
      keepsRest_refl s⟩
  · have hleft : (if s.sb.runsOn n = true then (s.withSlot n { s.slot n with sbdatLow := true }).acknowledge
        else s.withSlot n { s.slot n with sbdatLow := true }) = s.withSlot n { s.slot n with sbdatLow := true } := by
      split
      next hruns =>
        obtain ⟨j, hrun, hslot⟩ := (s.sb.runsOn_iff n).mp hruns
        exact State.acknowledge_elsewhere (s := s.withSlot n { s.slot n with sbdatLow := true })
          (hno.resolve_right fun h => h j hrun hslot)
      next => rfl
    exact ⟨_, hexec.trans (congrArg Host.Outcome.next hleft), rfl, hline⟩
  · have hoffLine : ¬ s.sb.onLine = some n := by
      unfold Sideband.onLine
      split
      next => exact fun h => nomatch h
      next hidle =>
        intro hmap
        obtain ⟨j, hrun, hslot⟩ := Option.map_eq_some_iff.mp hmap
        exact hno.elim hidle fun h => h j hrun hslot
    rw [State.sbclk, State.sbdat, if_neg hpwr, if_neg hpwr, if_neg hoffLine, if_neg hoffLine]
    exact ⟨rfl, rfl⟩
  · have honLine (hidle : s.sb.phase ≠ .idle) : s.sb.onLine = some n := by
      rw [Sideband.onLine, if_neg hidle, hrun, Option.map_some, hslot]
    refine ⟨fun hphase => ?_, fun i hphase hlo hhi => ?_, fun i w reg d seq hj hphase hlo hhi => ?_, fun hphase => ?_,
      fun hphase => ?_, fun hphase => ?_⟩
    · have h := honLine (by rw [hphase]; decide)
      rw [hclock h, hdata h]
      simp only [Sideband.clockPin, Sideband.dataPin, hphase, and_self]
    · have h := honLine (by rw [hphase]; decide)
      have htime : bitTime 9 s.sb.phaseEnds s.now = i.val := bitTime_eq i.isLt hlo hhi
      rw [hclock h, hdata h, Sideband.dataPin_command hrun hphase i hlo hhi]
      simp only [Sideband.clockPin, hphase, htime, and_self]
    · have h := honLine (by rw [hphase]; decide)
      rw [hclock h, hdata h, Sideband.dataPin_writeData (hj ▸ hrun) hphase i hlo hhi]
      simp only [Sideband.clockPin, hphase, and_self]
    · have h := honLine (by rw [hphase]; decide)
      rw [hclock h, hdata h]
      simp only [Sideband.clockPin, Sideband.dataPin, hphase, and_self]
    · have h := honLine (by rw [hphase]; decide)
      rw [hclock h, hdata h]
      simp only [Sideband.clockPin, Sideband.dataPin, hphase, and_self]
    · have h := honLine (by rw [hphase]; decide)
      rw [hclock h, hdata h]
      simp only [Sideband.clockPin, Sideband.dataPin, hphase, and_self]

end Sys2Proof.Machine
end

section
/-! Time at the Sideband Engine (R6, R28, R30 to R35, R37; logs 5, 9, 10): a microsecond by the phase that it finds, the expiry
of an access's timeout, and the end of an access. -/

namespace Sys2Proof.Machine

/-! ## One microsecond, phase by phase -/

/-- The next moment is one microsecond. -/
theorem State.reach_tick (s : State) : s.reach (s.now + 1) = s.tick := by
  rw [State.reach, Nat.add_sub_cancel_left]
  rfl

/-- A microsecond in which no expiry is taken. -/
theorem State.tick_of_quiet {s : State} (h : s.failOverdue = s) :
    s.tick = ({ ({ s with now := s.now + 1 } : State).sampleLine with
      sb := ({ s with now := s.now + 1 } : State).sampleLine.sb.pass
        ({ s with now := s.now + 1 } : State).sampleLine.now } : State).endFailed := by
  rw [State.tick, h]

/-- Outside LINE_CHECK and ACK_WAIT no expiry is taken. -/
theorem State.failOverdue_of_phase {s : State} (h : s.sb.phase ∈ [.idle, .command, .writeData, .readData, .stop]) :
    s.failOverdue = s := by
  simp only [List.mem_cons, List.not_mem_nil, or_false] at h
  unfold State.failOverdue
  rcases h with h | h | h | h | h <;> rw [h]

/-- An expiry that has not come is not taken. -/
theorem State.failOverdue_of_not_due {s : State} (h : ¬ (s.sb.expired = true ∨ s.sb.started + s.sb.timeout * 10 ≤ s.now)) :
    s.failOverdue = s := by
  unfold State.failOverdue
  split
  · exact if_neg h
  · exact if_neg h
  all_goals rfl

/-- Outside LINE_CHECK no line is sampled. -/
theorem State.sampleLine_of_phase {s : State} (h : s.sb.phase ≠ .lineCheck) : s.sampleLine = s := by
  unfold State.sampleLine
  split
  · contradiction
  all_goals rfl

/-- A microsecond outside LINE_CHECK and ACK_WAIT: the phase runs out in time, and then the stop mark of a failed access. -/
theorem State.tick_of_phase {s : State} (h : s.sb.phase ∈ [.idle, .command, .writeData, .readData, .stop]) :
    s.tick = ({ s with now := s.now + 1, sb := s.sb.pass (s.now + 1) } : State).endFailed := by
  have hline : s.sb.phase ≠ .lineCheck := by
    intro hphase
    rw [hphase] at h
    exact absurd h (by decide)
  rw [State.tick_of_quiet (State.failOverdue_of_phase h),
    State.sampleLine_of_phase (s := { s with now := s.now + 1 }) hline]

/-- A job has its stop mark sent in STOP alone. -/
theorem State.endFailed_of_phase {s : State} (h : s.sb.phase ≠ .stop) : s.endFailed = s :=
  if_neg fun hc => h hc.2.1

theorem State.endFailed_of_not_failed {s : State} (h : s.sb.failed = false) : s.endFailed = s :=
  if_neg fun hc => absurd (h.symm.trans hc.1) (by decide)

theorem State.endFailed_of_early {s : State} (h : s.now < s.sb.phaseEnds) : s.endFailed = s :=
  if_neg fun hc => by
    obtain ⟨-, -, hends⟩ := hc
    omega

theorem State.endFailed_of_sent {s : State} (hfailed : s.sb.failed = true) (hphase : s.sb.phase = .stop)
    (hends : s.sb.phaseEnds ≤ s.now) : s.endFailed = s.failJob := if_pos ⟨hfailed, hphase, hends⟩

theorem State.tick_idle {s : State} (h : s.sb.phase = .idle) : s.tick = { s with now := s.now + 1 } := by
  have hpass : s.sb.pass (s.now + 1) = s.sb := by simp only [Sideband.pass, h]
  rw [State.tick_of_phase (by rw [h]; decide), hpass]
  exact State.endFailed_of_phase (s := { s with now := s.now + 1 }) (by rw [h]; decide)

theorem State.tick_command {s : State} {j : Job} (hrun : s.sb.running = some j) (h : s.sb.phase = .command) :
    s.tick = if s.sb.phaseEnds ≤ s.now + 1 then
        if j.isWrite = true then
          { s with now := s.now + 1, sb := { s.sb with phase := .writeData, phaseEnds := s.sb.phaseEnds + 32 } }
        else { s with now := s.now + 1, sb := { s.sb with phase := .ackWait } }
      else { s with now := s.now + 1 } := by
  have hpass : s.sb.pass (s.now + 1) = if s.sb.phaseEnds ≤ s.now + 1 then
        if j.isWrite = true then { s.sb with phase := .writeData, phaseEnds := s.sb.phaseEnds + 32 }
        else { s.sb with phase := .ackWait }
      else s.sb := by
    simp only [Sideband.pass, h, Sideband.afterCommand, hrun, Option.any_some]
  rw [State.tick_of_phase (by rw [h]; decide), hpass]
  split
  · split <;> exact State.endFailed_of_phase nofun
  · exact State.endFailed_of_phase (s := { s with now := s.now + 1 }) (by rw [h]; decide)

theorem State.tick_writeData {s : State} (h : s.sb.phase = .writeData) :
    s.tick = if s.sb.phaseEnds ≤ s.now + 1 then { s with now := s.now + 1, sb := { s.sb with phase := .ackWait } }
      else { s with now := s.now + 1 } := by
  have hpass : s.sb.pass (s.now + 1) = if s.sb.phaseEnds ≤ s.now + 1 then { s.sb with phase := .ackWait } else s.sb := by
    simp only [Sideband.pass, h]
  rw [State.tick_of_phase (by rw [h]; decide), hpass]
  split
  · exact State.endFailed_of_phase nofun
  · exact State.endFailed_of_phase (s := { s with now := s.now + 1 }) (by rw [h]; decide)

theorem State.tick_readData {s : State} (h : s.sb.phase = .readData) (hfailed : s.sb.failed = false) :
    s.tick = if s.sb.phaseEnds ≤ s.now + 1 then
        { s with now := s.now + 1, sb := { s.sb with phase := .stop, phaseEnds := s.sb.phaseEnds + 2 } }
      else { s with now := s.now + 1 } := by
  have hpass : s.sb.pass (s.now + 1) =
      if s.sb.phaseEnds ≤ s.now + 1 then { s.sb with phase := .stop, phaseEnds := s.sb.phaseEnds + 2 } else s.sb := by
    simp only [Sideband.pass, h]
  rw [State.tick_of_phase (by rw [h]; decide), hpass]
  split
  · exact State.endFailed_of_not_failed hfailed
  · exact State.endFailed_of_not_failed (s := { s with now := s.now + 1 }) hfailed

/-- A microsecond in STOP: the job of a failed access ends when its stop mark has been sent. -/
theorem State.tick_stop {s : State} (h : s.sb.phase = .stop) :
    s.tick = ({ s with now := s.now + 1 } : State).endFailed := by
  have hpass : s.sb.pass (s.now + 1) = s.sb := by simp only [Sideband.pass, h]
  rw [State.tick_of_phase (by rw [h]; decide), hpass]

/-- A microsecond in ACK_WAIT at which an expiry has come: the stop mark is sent. -/
theorem State.tick_ackWait_due {s : State} (h : s.sb.phase = .ackWait)
    (hdue : s.sb.expired = true ∨ s.sb.started + s.sb.timeout * 10 ≤ s.now) :
    s.tick = { s with
      now := s.now + 1
      sb := { s.sb with phase := .stop, phaseEnds := s.now + 2, expired := false, failed := true } } := by
  have hfail : s.failOverdue = { s with sb := s.sb.sendStopMark s.now } := by
    simp only [State.failOverdue, h]
    rw [State.failAccess, if_pos h]
    exact if_pos hdue
  rw [State.tick, hfail, State.sampleLine_of_phase (by simp [Sideband.sendStopMark])]
  exact State.endFailed_of_early (Nat.lt_succ_self _)

theorem State.tick_ackWait {s : State} (h : s.sb.phase = .ackWait)
    (hdue : ¬ (s.sb.expired = true ∨ s.sb.started + s.sb.timeout * 10 ≤ s.now)) : s.tick = { s with now := s.now + 1 } := by
  rw [State.tick_of_quiet (State.failOverdue_of_not_due hdue),
    State.sampleLine_of_phase (s := { s with now := s.now + 1 }) (by rw [h]; decide), Sideband.pass_wait _ _ (.inr h)]
  exact State.endFailed_of_phase (s := { s with now := s.now + 1 }) (by rw [h]; decide)

/-- A microsecond in LINE_CHECK: the line is sampled, and the command sent once it is released. -/
theorem State.tick_lineCheck {s : State} {j : Job} (hrun : s.sb.running = some j) (h : s.sb.phase = .lineCheck)
    (hdue : ¬ (s.sb.expired = true ∨ s.sb.started + s.sb.timeout * 10 ≤ s.now)) :
    s.tick = if Config.sbdatReleased s.drawn then
        { ({ s with now := s.now + 1 } : State).withSlot j.slot { s.slot j.slot with sbdatLow := false } with
          drawn := s.drawn + 1, sb := { s.sb with phase := .command, phaseEnds := s.now + 19 } }
      else { s with now := s.now + 1, drawn := s.drawn + 1 } := by
  rw [State.tick_of_quiet (State.failOverdue_of_not_due hdue)]
  have hsample : ({ s with now := s.now + 1 } : State).sampleLine = if Config.sbdatReleased s.drawn then
        { ({ s with now := s.now + 1 } : State).withSlot j.slot { s.slot j.slot with sbdatLow := false } with
          drawn := s.drawn + 1, sb := { s.sb with phase := .command, phaseEnds := s.now + 19 } }
      else { s with now := s.now + 1, drawn := s.drawn + 1 } := by
    simp only [State.sampleLine, h, hrun, State.line_eq_withSlot]
    rfl
  rw [hsample]
  split
  · have hpass : ({ s.sb with phase := .command, phaseEnds := s.now + 19 } : Sideband).pass (s.now + 1) =
        { s.sb with phase := .command, phaseEnds := s.now + 19 } := if_neg (by dsimp only; omega)
    exact (congrArg (fun sb => ({ ({ s with now := s.now + 1 } : State).withSlot j.slot
      { s.slot j.slot with sbdatLow := false } with drawn := s.drawn + 1, sb := sb } : State).endFailed) hpass).trans
      (State.endFailed_of_phase nofun)
  · have hpass : s.sb.pass (s.now + 1) = s.sb := Sideband.pass_wait _ _ (.inl h)
    exact (congrArg (fun sb => ({ s with now := s.now + 1, drawn := s.drawn + 1, sb := sb } : State).endFailed) hpass).trans
      (State.endFailed_of_phase (s := { s with now := s.now + 1, drawn := s.drawn + 1 }) (by rw [h]; decide))

/-! ## The engine after a job's end (R31 to R33) -/

/-- The engine that has gone on from an idle one has no failed access. -/
theorem State.goesOn_failed (s : State) {sb : Sideband} (h : sb.failed = false) : (s.goesOn sb).failed = false := by
  unfold State.goesOn State.takesHead
  split
  · rfl
  all_goals exact h

/-- A timeout that starts at a moment does not expire at it. -/
theorem State.failOverdue_of_goesOn {u v : State} {sb : Sideband} (hsb : v.sb = u.goesOn sb) (hphase : sb.phase = .idle)
    (htimeout : sb.timeout ≠ 0) (hnow : v.now = u.now) : v.failOverdue = v := by
  have hcases : v.sb.phase = .idle ∨ (v.sb.expired = false ∧ v.sb.started = u.now ∧ v.sb.timeout = sb.timeout) := by
    rw [hsb]
    unfold State.goesOn State.takesHead
    split
    · exact .inr ⟨rfl, rfl, rfl⟩
    all_goals exact .inl hphase
  rcases hcases with hidle | ⟨hexpired, hstarted, hlimit⟩
  · exact State.failOverdue_of_phase (by rw [hidle]; decide)
  · refine State.failOverdue_of_not_due ?_
    rw [hexpired, hstarted, hlimit, hnow]
    rintro (h | h)
    · exact nomatch h
    · omega

theorem Sideband.without_of_idle {sb : Sideband} (h : sb.running = none) (n : SlotId) :
    (sb.without n).phase = sb.phase ∧ (sb.without n).timeout = sb.timeout ∧ (sb.without n).failed = sb.failed := by
  unfold Sideband.without
  rw [h]
  exact ⟨rfl, rfl, rfl⟩

/-- The job of a failed access leaves none that has failed. -/
theorem State.failJob_failed {s : State} {j : Job} (h : s.sb.running = some j) : s.failJob.sb.failed = false := by
  cases j with
  | request n w reg d seq =>
    rw [State.failJob_request s h]
    exact State.goesOn_failed s rfl
  | identity n ws =>
    by_cases hid : (s.slot n).state = .identifying
    · obtain ⟨-, -, -, -, hsb, -⟩ := State.failJob_identity s h hid
      rw [hsb]
      exact State.goesOn_failed _ (Sideband.without_of_idle rfl n).2.2
    · rw [State.failJob_identity_left s h hid]
      exact State.goesOn_failed s rfl

/-- In LINE_CHECK an expiry that has come ends the job, and the microsecond is the next job's. -/
theorem State.tick_lineCheck_due {s : State} (h : s.sb.phase = .lineCheck)
    (hdue : s.sb.expired = true ∨ s.sb.started + s.sb.timeout * 10 ≤ s.now) (hnext : s.failJob.failOverdue = s.failJob) :
    s.tick = s.failJob.tick := by
  have hfail : s.failOverdue = s.failJob := by
    have haccess : s.failAccess = s.failJob := if_neg (by rw [h]; decide)
    simp only [State.failOverdue, h, haccess]
    exact if_pos hdue
  rw [State.tick, State.tick, hfail, hnext, State.failJob_now]

/-- The answer to a request job that has failed. -/
theorem State.failJob_answers {s : State} {n : SlotId} {w : Bool} {reg : Byte} {d seq : Half}
    (h : s.sb.running = some (.request n w reg d seq)) :
    s.failJob = { s with
      sb := s.goesOn s.sb.jobEnded
      ring := { s.ring with
        pend := s.ring.pend ++ [.response ⟨.timeout, BitVec.ofNat 8 (n.val + 1), 10, seq, .sideband reg 0⟩]
        reserved := s.ring.reserved - 1 } } := State.failJob_request s h

/-! ## The expiry of the timeout (R31) -/

/-- The phases in which the sideband timeout runs. -/
def Sideband.timed (sb : Sideband) : Prop := sb.phase ∈ [Phase.lineCheck, .command, .writeData, .ackWait]

theorem Sideband.timed.of_phase {sb : Sideband} {p : Phase} (h : sb.phase = p)
    (hp : p ∈ [Phase.lineCheck, .command, .writeData, .ackWait]) : sb.timed := by
  rw [Sideband.timed, h]
  exact hp

/-- The same access goes on, its timeout running. -/
structure Sideband.sameAccess (sb sb' : Sideband) : Prop where
  timed : sb'.timed
  running : sb'.running = sb.running
  started : sb'.started = sb.started
  timeout : sb'.timeout = sb.timeout
  expired : sb'.expired = sb.expired

theorem Sideband.sameAccess.trans {a b c : Sideband} (h : a.sameAccess b) (k : b.sameAccess c) : a.sameAccess c where
  timed := k.timed
  running := k.running.trans h.running
  started := k.started.trans h.started
  timeout := k.timeout.trans h.timeout
  expired := k.expired.trans h.expired

theorem Sideband.timed.sameAccess {sb : Sideband} (h : sb.timed) : sb.sameAccess sb := ⟨h, rfl, rfl, rfl, rfl⟩

theorem Sideband.timed.pass {sb : Sideband} (h : sb.timed) (now : Nat) : sb.sameAccess (sb.pass now) := by
  unfold Sideband.pass
  split
  · split
    · unfold Sideband.afterCommand
      split
      · exact ⟨.of_phase (p := .writeData) rfl (by decide), rfl, rfl, rfl, rfl⟩
      · exact ⟨.of_phase (p := .ackWait) rfl (by decide), rfl, rfl, rfl, rfl⟩
    · exact h.sameAccess
  · split
    · exact ⟨.of_phase (p := .ackWait) rfl (by decide), rfl, rfl, rfl, rfl⟩
    · exact h.sameAccess
  next hphase =>
    unfold Sideband.timed at h
    rw [hphase] at h
    exact absurd h (by decide)
  all_goals exact h.sameAccess

theorem State.sampleLine_sameAccess {s : State} (h : s.sb.timed) : s.sb.sameAccess s.sampleLine.sb := by
  unfold State.sampleLine
  split
  · split
    · exact ⟨.of_phase (p := .command) rfl (by decide), rfl, rfl, rfl, rfl⟩
    · exact h.sameAccess
  all_goals exact h.sameAccess

/-- A microsecond before the expiry. -/
theorem State.tick_sameAccess {s : State} (h : s.sb.timed)
    (hdue : ¬ (s.sb.expired = true ∨ s.sb.started + s.sb.timeout * 10 ≤ s.now)) : s.sb.sameAccess s.tick.sb := by
  have hsample := State.sampleLine_sameAccess (s := { s with now := s.now + 1 }) h
  have hall := hsample.trans (hsample.timed.pass ({ s with now := s.now + 1 } : State).sampleLine.now)
  rw [State.tick_of_quiet (State.failOverdue_of_not_due hdue), State.endFailed_of_phase]
  · exact hall
  · intro hstop
    have htimed := hall.timed
    unfold Sideband.timed at htimed
    rw [hstop] at htimed
    exact absurd htimed (by decide)

/-- Several microseconds, up to the expiry. -/
theorem State.elapse_sameAccess (k : Nat) {s : State} (h : s.sb.timed) (hexpired : s.sb.expired = false)
    (hk : s.now + k ≤ s.sb.started + s.sb.timeout * 10) : s.sb.sameAccess (s.elapse k).sb := by
  induction k generalizing s with
  | zero => exact h.sameAccess
  | succ k ih =>
    have hdue : ¬ (s.sb.expired = true ∨ s.sb.started + s.sb.timeout * 10 ≤ s.now) := by
      rw [hexpired]
      rintro (h | h)
      · exact nomatch h
      · omega
    have htick := State.tick_sameAccess h hdue
    have hnow : s.tick.now = s.now + 1 := s.tick_passesTime.2
    refine htick.trans (ih htick.timed (htick.expired.trans hexpired) ?_)
    rw [hnow, htick.started, htick.timeout]
    omega

/-- The expiry's moment is reached in a phase in which the timeout runs. -/
theorem State.reach_sameAccess {s : State} (h : s.sb.timed) (hexpired : s.sb.expired = false) :
    s.sb.sameAccess (s.reach (s.sb.started + s.sb.timeout * 10)).sb := by
  by_cases hpast : s.sb.started + s.sb.timeout * 10 ≤ s.now
  · rw [State.reach_self s _ hpast]
    exact h.sameAccess
  · exact State.elapse_sameAccess _ h hexpired (by omega)

end Sys2Proof.Machine
end

section
/-! The sideband timeout, and the end of an access (R6, R28, R30 to R35, R37). -/

namespace Sys2Proof.Machine

/-! ## The sideband timeout (R31) -/

theorem exec_sidebandTimeoutExpiry {s : State} (h : s.sb.timed) (hexpired : s.sb.expired = false) :
    exec .sidebandTimeoutExpiry s = .next (s.reach (s.sb.started + s.sb.timeout * 10)).takeExpiry := by
  have hnot : ¬ s.sb.expired = true := by rw [hexpired]; decide
  have htaken : s.expireAccess = (s.reach (s.sb.started + s.sb.timeout * 10)).takeExpiry := by
    unfold Sideband.timed at h
    simp only [List.mem_cons, List.not_mem_nil, or_false] at h
    unfold State.expireAccess
    rcases h with h | h | h | h <;> rw [h] <;> exact if_neg hnot
  exact congrArg Host.Outcome.next htaken

/-- An expiry that is not watched, or is taken already, does nothing. -/
theorem State.expireAccess_left {s : State} (h : s.sb.phase ∈ [.idle, .readData, .stop] ∨ s.sb.expired = true) :
    s.expireAccess = s := by
  unfold State.expireAccess
  split
  case h_5 | h_6 | h_7 => rfl
  all_goals
    rename_i hphase
    rw [hphase] at h
    exact if_pos (h.resolve_left (by decide))

theorem State.takeExpiry_going {s : State} (h : s.sb.phase = .command ∨ s.sb.phase = .writeData) :
    s.takeExpiry = { s with sb := { s.sb with expired := true } } := by
  unfold State.takeExpiry
  rcases h with h | h <;> rw [h]

theorem State.takeExpiry_ackWait {s : State} (h : s.sb.phase = .ackWait) :
    s.takeExpiry = { s with
      sb := { s.sb with phase := .stop, phaseEnds := s.now + 2, expired := false, failed := true } } := by
  have hfail : s.failAccess = { s with sb := s.sb.sendStopMark s.now } := if_pos h
  simp only [State.takeExpiry, h, hfail]
  rfl

theorem State.takeExpiry_lineCheck {s : State} (h : s.sb.phase = .lineCheck) : s.takeExpiry = s.failJob := by
  have hfail : s.failAccess = s.failJob := if_neg (by rw [h]; decide)
  simp only [State.takeExpiry, h, hfail]

/-- The next job's access does not expire in the microsecond of its start. -/
theorem State.failJob_failOverdue {s : State} {j : Job} (hrun : s.sb.running = some j) (htimeout : s.sb.timeout ≠ 0) :
    s.failJob.failOverdue = s.failJob := by
  cases j with
  | request n w reg d seq =>
    have hanswers := State.failJob_answers hrun
    exact State.failOverdue_of_goesOn (congrArg State.sb hanswers) rfl htimeout (State.failJob_now s)
  | identity n ws =>
    by_cases hid : (s.slot n).state = .identifying
    · obtain ⟨-, -, -, -, hsb, -⟩ := State.failJob_identity s hrun hid
      obtain ⟨hphase, hlimit, -⟩ := Sideband.without_of_idle (sb := s.sb.jobEnded) rfl n
      exact State.failOverdue_of_goesOn hsb hphase (by rw [hlimit]; exact htimeout) (State.failJob_now s)
    · exact State.failOverdue_of_goesOn (congrArg State.sb (State.failJob_identity_left s hrun hid)) rfl htimeout
        (State.failJob_now s)

/-- Settles O37: the expiry by the phase that it reaches, and a microsecond by the phase that it finds. -/
theorem sidebandTimeoutFailsTheAccess : Obligations.SidebandTimeoutFailsTheAccess := by
  refine ⟨fun s h => congrArg Host.Outcome.next (State.expireAccess_left h), fun s hphase hexpired => ?_, fun s => ?_⟩
  · have hsame := State.reach_sameAccess hphase hexpired
    refine ⟨_, _, rfl, exec_sidebandTimeoutExpiry hphase hexpired, hsame.timed, hsame.running, State.takeExpiry_going,
      State.takeExpiry_ackWait, fun hline => ⟨fun n w reg d seq hrun => ?_, fun n ws hrun hid => ?_⟩⟩
    · rw [State.takeExpiry_lineCheck hline]
      exact State.failJob_answers (hsame.running.trans hrun)
    · rw [State.takeExpiry_lineCheck hline]
      exact ⟨State.failJob_now _, State.failJob_identity _ (hsame.running.trans hrun) hid⟩
  · rw [State.reach_tick]
    refine ⟨State.tick_idle, fun j hrun h => State.tick_command hrun h, State.tick_writeData, State.tick_readData,
      fun h => ⟨State.tick_ackWait_due h, State.tick_ackWait h⟩, fun j hrun h hdue => State.tick_lineCheck hrun h hdue,
      fun h hdue htimeout => ⟨fun n w reg d seq hrun => ?_, fun n ws hrun hid => ?_⟩, fun h => ⟨fun hquiet => ?_,
        fun hfailed hends => ⟨fun n w reg d seq hrun => ?_, fun n ws hrun hid => ?_⟩⟩⟩
    · rw [State.tick_lineCheck_due h hdue (State.failJob_failOverdue hrun htimeout), State.failJob_answers hrun]
      exact (State.reach_tick _).symm
    · refine ⟨s.failJob, ?_, State.failJob_now s, State.failJob_identity s hrun hid⟩
      rw [State.tick_lineCheck_due h hdue (State.failJob_failOverdue hrun htimeout)]
      have hreach := s.failJob.reach_tick
      rw [State.failJob_now] at hreach
      exact hreach.symm
    · rw [State.tick_stop h]
      rcases hquiet with hfailed | hearly
      · exact State.endFailed_of_not_failed (s := { s with now := s.now + 1 }) hfailed
      · exact State.endFailed_of_early (s := { s with now := s.now + 1 }) hearly
    · rw [State.tick_stop h, State.endFailed_of_sent (s := { s with now := s.now + 1 }) hfailed h hends]
      exact State.failJob_answers (s := { s with now := s.now + 1 }) hrun
    · rw [State.tick_stop h, State.endFailed_of_sent (s := { s with now := s.now + 1 }) hfailed h hends]
      exact ⟨State.failJob_now _, State.failJob_identity ({ s with now := s.now + 1 } : State) hrun hid⟩

/-! ## The end of an access (R30 to R35, R37) -/

/-- Once acknowledged, an access that has not failed passes through its phases and nothing else changes. -/
theorem State.elapse_acknowledged (k : Nat) {s : State} (hphase : s.sb.phase = .readData ∨ s.sb.phase = .stop)
    (hfailed : s.sb.failed = false) :
    ∃ phase ends, s.elapse k = { s with now := s.now + k, sb := { s.sb with phase := phase, phaseEnds := ends } } := by
  induction k generalizing s with
  | zero => exact ⟨s.sb.phase, s.sb.phaseEnds, rfl⟩
  | succ k ih =>
    have htick : ∃ phase ends, (phase = .readData ∨ phase = .stop) ∧
        s.tick = { s with now := s.now + 1, sb := { s.sb with phase := phase, phaseEnds := ends } } := by
      rcases hphase with h | h
      · rw [State.tick_readData h hfailed]
        split
        · exact ⟨.stop, _, .inr rfl, rfl⟩
        · exact ⟨s.sb.phase, s.sb.phaseEnds, .inl h, rfl⟩
      · rw [State.tick_stop h]
        exact ⟨s.sb.phase, s.sb.phaseEnds, .inr h, State.endFailed_of_not_failed (s := { s with now := s.now + 1 }) hfailed⟩
    obtain ⟨phase, ends, hp, htick⟩ := htick
    obtain ⟨phase', ends', hlater⟩ := ih
      (s := { s with now := s.now + 1, sb := { s.sb with phase := phase, phaseEnds := ends } }) hp hfailed
    refine ⟨phase', ends', ?_⟩
    rw [State.elapse, htick, hlater]
    simp only [Nat.add_assoc, Nat.add_comm 1 k]

/-- Until its stop mark has been sent, a failed access waits. -/
theorem State.elapse_stopMark (k : Nat) {s : State} (hphase : s.sb.phase = .stop) (hk : s.now + k < s.sb.phaseEnds) :
    s.elapse k = { s with now := s.now + k } := by
  induction k generalizing s with
  | zero => rfl
  | succ k ih =>
    have htick : s.tick = { s with now := s.now + 1 } := by
      rw [State.tick_stop hphase]
      exact State.endFailed_of_early (s := { s with now := s.now + 1 }) (by dsimp only; omega)
    rw [State.elapse, htick, ih (s := { s with now := s.now + 1 }) hphase (by dsimp only; omega)]
    simp only [Nat.add_assoc, Nat.add_comm 1 k]

/-- A failed access's job ends at the end of its stop mark, and once. -/
theorem State.endFailed_reach {s : State} {j : Job} (hrun : s.sb.running = some j) (hphase : s.sb.phase = .stop)
    (hfailed : s.sb.failed = true) :
    (s.reach s.sb.phaseEnds).endFailed = ({ s with now := max s.now s.sb.phaseEnds } : State).failJob := by
  by_cases hpast : s.sb.phaseEnds ≤ s.now
  · rw [State.reach_self s _ hpast, State.endFailed_of_sent hfailed hphase hpast, Nat.max_eq_left hpast]
  · obtain ⟨d, hd⟩ := Nat.exists_eq_add_of_lt (Nat.lt_of_not_le hpast)
    have hlast : s.reach s.sb.phaseEnds = ({ s with now := s.sb.phaseEnds } : State).failJob := by
      have hsplit : s.sb.phaseEnds - s.now = d + 1 := by omega
      rw [State.reach, hsplit, State.elapse_add, State.elapse_stopMark d hphase (by omega)]
      have hnow : ({ s with now := s.now + d + 1 } : State) = { s with now := s.sb.phaseEnds } := by rw [← hd]
      refine (State.tick_stop (s := { s with now := s.now + d }) hphase).trans ?_
      refine Eq.trans ?_ (congrArg State.failJob hnow)
      exact State.endFailed_of_sent (s := { s with now := s.now + d + 1 }) hfailed hphase (by dsimp only; omega)
    rw [hlast, Nat.max_eq_right (by omega)]
    exact State.endFailed_of_not_failed (State.failJob_failed (s := { s with now := s.sb.phaseEnds }) hrun)

/-- Where the access of slot `n` ends: the moment, and the level of its line. -/
def State.atAccessEnd (s : State) (n : SlotId) (high : Bool) : State :=
  { s.withSlot n { s.slot n with sbdatLow := !high } with
    now := max s.now (s.sb.phaseEnds + if s.sb.phase = .readData then 2 else 0) }

theorem Sideband.stopEnds_eq (sb : Sideband) : sb.stopEnds = sb.phaseEnds + if sb.phase = .readData then 2 else 0 := by
  unfold Sideband.stopEnds
  split <;> rfl

/-- An access that has not failed succeeds. -/
theorem exec_accessEnd_succeeds {s : State} {j : Job} (hphase : s.sb.phase = .readData ∨ s.sb.phase = .stop)
    (hrun : s.sb.running = some j) (hfailed : s.sb.failed = false) (data : Half) (high : Bool) :
    ∃ phase ends, exec (.sidebandAccessEnd data high) s = .next
      (({ s.atAccessEnd j.slot high with sb := { s.sb with phase := phase, phaseEnds := ends } } : State).succeedAccess
        data) := by
  have hend : s.endAccess data high =
      ((s.withSlot j.slot { s.slot j.slot with sbdatLow := !high }).reach s.sb.stopEnds).succeedAccess data := by
    rw [← State.line_eq_withSlot]
    unfold State.endAccess
    rcases hphase with h | h <;> rw [h, hrun] <;> exact if_neg (by rw [hfailed]; decide)
  obtain ⟨phase, ends, hlater⟩ := State.elapse_acknowledged (s.sb.stopEnds - s.now)
    (s := s.withSlot j.slot { s.slot j.slot with sbdatLow := !high }) hphase hfailed
  refine ⟨phase, ends, congrArg Host.Outcome.next (hend.trans ?_)⟩
  have hreach : (s.withSlot j.slot { s.slot j.slot with sbdatLow := !high }).reach s.sb.stopEnds =
      { s.atAccessEnd j.slot high with sb := { s.sb with phase := phase, phaseEnds := ends } } := by
    refine hlater.trans ?_
    have hnow : s.now + (s.sb.stopEnds - s.now) = max s.now (s.sb.phaseEnds + if s.sb.phase = .readData then 2 else 0) := by
      rw [← Sideband.stopEnds_eq]
      omega
    exact congrArg (fun m => ({ s.withSlot j.slot { s.slot j.slot with sbdatLow := !high } with
      now := m, sb := { s.sb with phase := phase, phaseEnds := ends } } : State)) hnow
  rw [hreach]

/-- A failed access's job ends with its stop mark. -/
theorem exec_accessEnd_fails {s : State} {j : Job} (hphase : s.sb.phase = .stop) (hrun : s.sb.running = some j)
    (hfailed : s.sb.failed = true) (data : Half) (high : Bool) :
    exec (.sidebandAccessEnd data high) s = .next (s.atAccessEnd j.slot high).failJob := by
  have hend : s.endAccess data high =
      ((s.withSlot j.slot { s.slot j.slot with sbdatLow := !high }).reach s.sb.stopEnds).endFailed := by
    rw [← State.line_eq_withSlot]
    unfold State.endAccess
    rw [hphase, hrun]
    exact if_pos hfailed
  have hstop : s.sb.stopEnds = s.sb.phaseEnds := if_neg (by rw [hphase]; decide)
  have hnow : s.atAccessEnd j.slot high =
      { s.withSlot j.slot { s.slot j.slot with sbdatLow := !high } with now := max s.now s.sb.phaseEnds } := by
    rw [State.atAccessEnd, ← Sideband.stopEnds_eq, hstop]
  refine congrArg Host.Outcome.next (hend.trans ?_)
  rw [hstop, hnow]
  exact State.endFailed_reach (s := s.withSlot j.slot { s.slot j.slot with sbdatLow := !high }) hrun hphase hfailed

/-! ## The identity check (R11, R35) -/

theorem identityPasses_iff (w0 w1 w2 w3 w4 w5 w6 w7 : Half) :
    identityPasses [w0, w1, w2, w3, w4, w5, w6, w7] = true ↔
      w0 + w1 + w2 + w3 + w4 + w5 + w6 + w7 = 0 ∧ 1 ≤ w2.toNat ∧ w2.toNat ≤ 16 := by
  simp [identityPasses]

theorem State.succeedAccess_identity_next {s : State} {n : SlotId} {ws : List Half} {low : Bool}
    (hrun : s.sb.running = some (.identity n ws)) (hlen : ws.length < 7) (data : Half) (hlow : (s.slot n).sbdatLow = low) :
    s.succeedAccess data = { s with sb := s.sb.startAccess (.identity n (ws ++ [data])) s.now low } := by
  simp only [State.succeedAccess, hrun, if_pos hlen, hlow]

theorem State.succeedAccess_identity_done {s : State} {n : SlotId} {ws : List Half} (hrun : s.sb.running = some (.identity n ws))
    (hlen : ¬ ws.length < 7) (hid : (s.slot n).state = .identifying) (data : Half) :
    s.succeedAccess data = (if identityPasses (ws ++ [data]) = true then
        ({ s with sb := s.sb.jobEnded } : State).identified n (ws ++ [data])
      else ({ s with sb := s.sb.jobEnded } : State).identityFailed n .identityCheck).nextJob := by
  have hid' : (({ s with sb := s.sb.idle } : State).slot n).state = .identifying := hid
  simp only [State.succeedAccess, hrun, if_neg hlen, State.identityOutcome, hid', if_true]
  rfl

theorem State.succeedAccess_identity_passes {s : State} {n : SlotId} {ws : List Half}
    (hrun : s.sb.running = some (.identity n ws)) (hlen : ¬ ws.length < 7) (hid : (s.slot n).state = .identifying) (data : Half)
    (hpass : identityPasses (ws ++ [data]) = true) :
    s.succeedAccess data = (({ s with sb := s.sb.jobEnded } : State).identified n (ws ++ [data])).nextJob := by
  rw [State.succeedAccess_identity_done hrun hlen hid, if_pos hpass]

theorem State.succeedAccess_identity_fails {s : State} {n : SlotId} {ws : List Half}
    (hrun : s.sb.running = some (.identity n ws)) (hlen : ¬ ws.length < 7) (hid : (s.slot n).state = .identifying) (data : Half)
    (hfails : ¬ identityPasses (ws ++ [data]) = true) :
    s.succeedAccess data = (({ s with sb := s.sb.jobEnded } : State).identityFailed n .identityCheck).nextJob := by
  rw [State.succeedAccess_identity_done hrun hlen hid, if_neg hfails]

theorem State.identityFailed_now (s : State) (n : SlotId) (c : FaultCause) : (s.identityFailed n c).now = s.now := by
  simp [State.identityFailed, State.faultSlot]

theorem State.atAccessEnd_slot_self (s : State) (n : SlotId) (high : Bool) :
    (s.atAccessEnd n high).slot n = { s.slot n with sbdatLow := !high } := State.withSlot_slot_self s n _

theorem State.atAccessEnd_slot_of_ne (s : State) {n m : SlotId} (high : Bool) (h : m ≠ n) :
    (s.atAccessEnd n high).slot m = s.slot m := State.withSlot_slot_of_ne s _ h

/-- Words that pass the check take the slot to PENDING with PRESENT, and the engine goes on. -/
theorem State.identified_next_spec (s : State) (n : SlotId) (ws : List Half) :
    (s.identified n ws).nextJob.now = s.now ∧
      slotBecomesPosting n { s with sb := (s.identified n ws).nextJob.goesOn s.sb } (s.identified n ws).nextJob
        { s.slot n with
          state := .pending, timer := .stopped, identity := identityVector ws, identityOk := true }
        (.present n (s.slot n).incarnation (identityVector ws)) := by
  have hbecomes := slotBecomesPosting_of (slotBecomes_modSlot n s fun sl =>
    { sl with state := .pending, timer := .stopped, identity := identityVector ws, identityOk := true })
    (.present n (s.slot n).incarnation (identityVector ws))
  obtain ⟨hslot, ⟨hother, -, htrk, hext, hscrub, hctl, hparams, hsel, hdrawn, hpending⟩, hring⟩ := hbecomes
  rw [State.nextJob_eq (s.identified n ws)]
  exact ⟨rfl, hslot, ⟨hother, rfl, htrk, hext, hscrub, hctl, hparams, hsel, hdrawn, hpending⟩, hring⟩

/-- Settles O36, by the running job and by whether its access has failed. -/
theorem accessEndAnswersOrIdentifies : Obligations.AccessEndAnswersOrIdentifies := by
  intro s data high n hphase
  have hself := s.atAccessEnd_slot_self n high
  have hother : ∀ m, m ≠ n → (s.atAccessEnd n high).slot m = s.slot m := fun m hm => s.atAccessEnd_slot_of_ne high hm
  refine ⟨fun hfailed => ⟨fun ws hrun hlen => ?_, fun w reg d seq hrun => ?_, fun w0 w1 w2 w3 w4 w5 w6 hrun hid => ?_⟩,
    fun hfailed hstop => ⟨fun w reg d seq hrun => ?_, fun ws hrun hid => ?_⟩⟩
  · obtain ⟨phase, ends, hexec⟩ := exec_accessEnd_succeeds hphase hrun hfailed data high
    have hnext := State.succeedAccess_identity_next
      (s := { s.atAccessEnd n high with sb := { s.sb with phase := phase, phaseEnds := ends } }) hrun hlen data
      (congrArg Slot.sbdatLow hself)
    refine ⟨_, hexec.trans (congrArg Host.Outcome.next hnext), rfl, hself, hother, ?_, rfl, rfl, rfl, rfl, keepsRest_refl s⟩
    cases high <;> simp [Sideband.startAccess, hfailed]
  · obtain ⟨phase, ends, hexec⟩ := exec_accessEnd_succeeds hphase hrun hfailed data high
    refine ⟨_, hexec.trans (congrArg Host.Outcome.next (State.succeedAccess_request _ data hrun)), rfl, hself, hother, rfl,
      rfl, rfl, rfl, rfl, keepsRest_refl s⟩
  · obtain ⟨phase, ends, hexec⟩ := exec_accessEnd_succeeds hphase hrun hfailed data high
    have hid' : ((s.atAccessEnd n high).slot n).state = .identifying := (congrArg Slot.state hself).trans hid
    have hself' : ({ s.atAccessEnd n high with sb := s.sb.jobEnded } : State).slot n =
        { s.slot n with sbdatLow := !high } := hself
    refine ⟨fun hpass => ?_, fun hfails => ?_⟩
    · have hdone := State.succeedAccess_identity_passes
        (s := { s.atAccessEnd n high with sb := { s.sb with phase := phase, phaseEnds := ends } }) hrun (by simp) hid' data
        ((identityPasses_iff w0 w1 w2 w3 w4 w5 w6 data).mpr hpass)
      obtain ⟨hnow, hslot, ⟨hrest, hsb, htrk, hext, hscrub, hctl, hparams, hsel, hdrawn, hpending⟩, hring⟩ :=
        State.identified_next_spec { s.atAccessEnd n high with sb := s.sb.jobEnded } n [w0, w1, w2, w3, w4, w5, w6, data]
      rw [hself'] at hslot hring
      exact ⟨_, hexec.trans (congrArg Host.Outcome.next hdone), hnow, hslot, fun m hm => (hrest m hm).trans (hother m hm), hsb,
        hring, htrk, hext, hscrub, hctl, hparams, hsel, hdrawn, hpending⟩
    · have hdone := State.succeedAccess_identity_fails
        (s := { s.atAccessEnd n high with sb := { s.sb with phase := phase, phaseEnds := ends } }) hrun (by simp) hid' data
        ((not_congr (identityPasses_iff w0 w1 w2 w3 w4 w5 w6 data)).mpr hfails)
      have hends := shutsDown_nextJob
        (State.identityFailed_shutsDown { s.atAccessEnd n high with sb := s.sb.jobEnded } n .identityCheck (by decide))
      rw [hself'] at hends
      have hnow := (State.nextJob_now _).trans
        (State.identityFailed_now { s.atAccessEnd n high with sb := s.sb.jobEnded } n .identityCheck)
      exact ⟨_, hexec.trans (congrArg Host.Outcome.next hdone), hnow, hends⟩
  · have hexec := exec_accessEnd_fails hstop hrun hfailed data high
    exact ⟨_, hexec.trans (congrArg Host.Outcome.next (State.failJob_answers (s := s.atAccessEnd n high) hrun)), rfl, hself,
      hother, rfl, rfl, rfl, rfl, rfl, keepsRest_refl s⟩
  · have hexec := exec_accessEnd_fails hstop hrun hfailed data high
    have hid' : ((s.atAccessEnd n high).slot n).state = .identifying := (congrArg Slot.state hself).trans hid
    have hends := State.failJob_identity (s.atAccessEnd n high) hrun hid'
    rw [hself] at hends
    exact ⟨_, hexec, State.failJob_now _, hends⟩

end Sys2Proof.Machine
end
